-- ==== Sys2Proof/Word.lean ====
section
/-! DEFINITION. The word types of the engine and the sequence numbering of bits (spec/00_scope.md R6 to R10).
Sequence bit `i` of a `w`-bit value is its bit of weight `2^(w-1-i)`, which is `BitVec.getMsbD`. -/

namespace Sys2Proof

/-- A 64-bit unit processed by the cipher: BLOCK_W, KEY_W and SR_W (R6). -/
abbrev Block := BitVec 64

/-- The left or right half of a block: HALF_W (R6). -/
abbrev HalfBlock := BitVec 32

/-- One round's 48-bit key: RK_W (R6). -/
abbrev RoundKey := BitVec 48

/-- The 56-bit output of PC-1: EKEY_W (R6). -/
abbrev EffectiveKey := BitVec 56

/-- One of the 28-bit halves C and D of the effective key (R6). -/
abbrev HalfKey := BitVec 28

/-- The round-key file: `RK[i]` of the spec stands at index `i - 1` (R15, R27). -/
abbrev RoundKeys := Vector RoundKey 16

/-- A 32-bit command word: CMD_W (R7, R80). -/
abbrev CmdWord := BitVec 32

/-- The 32-bit status word: STATUS_W (R7, R29). -/
abbrev StatusWord := BitVec 32

/-- The 64 data bits of one host transaction: HOST_DATA_W (R7). -/
abbrev BusWord := BitVec 64

/-- A host register number: REG_ADDR_W (R7, R50). -/
abbrev RegAddr := BitVec 5

end Sys2Proof
end

