-- ==== Sys2Proof/Syntax.lean ====
section
/-! DEFINITION. The commands of the engine: one constructor per row of spec/opcode_table.json (30_encoding.md R84).
A command's operands are fixed registers (R81), so only the valid-bit count and the bits of the reserved words are
carried. -/

namespace Sys2Proof

/-- A command (30_encoding.md R84; 42_commands.md R151 to R158). -/
inductive Instr where
  /-- CLR, OP 0x0: clear ERR and OVR (R151). -/
  | clr
  /-- KEYGEN, OP 0x1: derive the round keys (R152). -/
  | keygen
  /-- ENC, OP 0x2: Feistel encrypt one block (R153). -/
  | enc
  /-- DEC, OP 0x3: Feistel decrypt one block (R154). -/
  | dec
  /-- CFB_INIT, OP 0x4: derive the round keys and seed the shift register (R155). -/
  | cfbInit
  /-- CFB_ENC, OP 0x5: one CFB encrypt step on the first `n` bits of DIN, `1 ≤ n ≤ 64` (R82, R156). -/
  | cfbEnc (n : Nat)
  /-- CFB_DEC, OP 0x6: one CFB decrypt step on the first `n` bits of DIN, `1 ≤ n ≤ 64` (R82, R157). -/
  | cfbDec (n : Nat)
  /-- The words of reserved opcode 0x7; `rest` is the word's bits [31:4] (R84, R158). -/
  | reservedOp7 (rest : BitVec 28)
  /-- The words of reserved opcodes 0x8 to 0xF; `op` is bits [3:0] and `rest` is bits [31:4] (R84, R158). -/
  | reservedOp8F (op : BitVec 4) (rest : BitVec 28)
  deriving DecidableEq, Repr

/-- The words of the reserved rows of the opcode table, which are illegal commands (R84, R87). -/
def Instr.isReserved : Instr → Bool
  | .clr | .keygen | .enc | .dec | .cfbInit | .cfbEnc _ | .cfbDec _ => false
  | .reservedOp7 _ | .reservedOp8F _ _ => true

end Sys2Proof
end

