-- ==== Sys2Proof/WellFormed.lean ====
section
/-! DEFINITION. Which terms of `Instr` stand for a command word. -/

namespace Sys2Proof

/-- An instruction that some command word encodes: a valid-bit count is 1 to 64 (30_encoding.md R82), and the
opcode of the last reserved row is 0x8 to 0xF (R84). -/
def Instr.wellFormed : Instr → Bool
  | .clr => true
  | .keygen => true
  | .enc => true
  | .dec => true
  | .cfbInit => true
  | .cfbEnc n => decide (1 ≤ n ∧ n ≤ 64)
  | .cfbDec n => decide (1 ≤ n ∧ n ≤ 64)
  | .reservedOp7 _ => true
  | .reservedOp8F op _ => decide (8 ≤ op.toNat)

end Sys2Proof
end

