-- ==== Sys2Proof/Decode.lean ====
section
/-! DEFINITION. The command word, its decoder and its encoder (spec/30_encoding.md). The decoder is total on 32-bit
words and rejects a malformed word by name; it depends on the word alone (R88). -/

namespace Sys2Proof

/-- OP, bits [3:0] of a command word (R80). -/
def opField (w : CmdWord) : BitVec 4 := w.extractLsb' 0 4

/-- NB, bits [9:4] of a command word (R80). -/
def nbField (w : CmdWord) : BitVec 6 := w.extractLsb' 4 6

/-- RES, bits [31:10] of a command word (R80). -/
def resField (w : CmdWord) : BitVec 22 := w.extractLsb' 10 22

/-- `legal(w)`, letter for letter as R85 gives it. -/
def legal (w : CmdWord) : Bool :=
  resField w == 0 &&
    (((opField w == 0x0 || opField w == 0x1 || opField w == 0x2 || opField w == 0x3 || opField w == 0x4) &&
        nbField w == 0) ||
      (opField w == 0x5 || opField w == 0x6))

/-- The valid-bit count that an NB field stands for: 0 means 64 (R82). -/
def validBits (nb : BitVec 6) : Nat := if nb = 0 then 64 else nb.toNat

/-- The NB field of a valid-bit count: 64 is encoded as 0 (R82). -/
def nbOfCount (n : Nat) : BitVec 6 := BitVec.ofNat 6 n

/-- Why a word that is no row of the opcode table is illegal. -/
inductive IllegalReason where
  /-- A bit of [31:10] is set on OP 0x0 to 0x6 (R83). -/
  | reservedBitsSet
  /-- NB is not 0 on OP 0x0 to 0x4 (R86). -/
  | nbNotAllowed
  deriving DecidableEq, Repr

/-- What the decoder makes of a command word: a row of the opcode table, or a rejection by name. -/
inductive Decoded where
  | instr (i : Instr)
  | illegal (r : IllegalReason)
  deriving DecidableEq, Repr

/-- A word of OP 0x0 to 0x4, which allows NB = 0 only (R84, R86). -/
def decodeNoNb (w : CmdWord) (i : Instr) : Decoded :=
  if resField w ≠ 0 then .illegal .reservedBitsSet
  else if nbField w ≠ 0 then .illegal .nbNotAllowed
  else .instr i

/-- A word of OP 0x5 or 0x6, which allows every NB (R82, R84). -/
def decodeNb (w : CmdWord) (f : Nat → Instr) : Decoded :=
  if resField w ≠ 0 then .illegal .reservedBitsSet
  else .instr (f (validBits (nbField w)))

/-- The decoder of command words (R84). The reserved opcodes 0x7 to 0xF take any upper bits, as their rows of
spec/opcode_table.json do. -/
def decode (w : CmdWord) : Decoded :=
  match (opField w).toNat with
  | 0 => decodeNoNb w .clr
  | 1 => decodeNoNb w .keygen
  | 2 => decodeNoNb w .enc
  | 3 => decodeNoNb w .dec
  | 4 => decodeNoNb w .cfbInit
  | 5 => decodeNb w .cfbEnc
  | 6 => decodeNb w .cfbDec
  | 7 => .instr (.reservedOp7 (w.extractLsb' 4 28))
  | _ => .instr (.reservedOp8F (opField w) (w.extractLsb' 4 28))

/-- A command word from its fields (R80). -/
def cmdWord (op : BitVec 4) (nb : BitVec 6) : CmdWord := (0#22 ++ nb) ++ op

/-- The command word of a well-formed instruction (R84). -/
def encode : Instr → CmdWord
  | .clr => cmdWord 0x0 0
  | .keygen => cmdWord 0x1 0
  | .enc => cmdWord 0x2 0
  | .dec => cmdWord 0x3 0
  | .cfbInit => cmdWord 0x4 0
  | .cfbEnc n => cmdWord 0x5 (nbOfCount n)
  | .cfbDec n => cmdWord 0x6 (nbOfCount n)
  | .reservedOp7 rest => rest ++ 0x7#4
  | .reservedOp8F op rest => rest ++ op

/-- The instruction the decoder reads from a word numbered as spec/opcode_table.json numbers it: one 32-bit bus
word, with bit 0 the least significant; the bits above `nbits` are 0. -/
def decodeTableWord (nbits w : Nat) : Option Instr :=
  match decode (BitVec.ofNat 32 (w % 2 ^ nbits)) with
  | .instr i => some i
  | .illegal _ => none

end Sys2Proof
end

