-- ==== Sys2Proof/Machine/Datapath.lean ====
section
/-! DEFINITION. The pure datapath (spec/41_primitives.md): the bit engine, the key schedule, the round function and
the Feistel transform. Its values are transient and never state (10_state.md R37). -/

namespace Sys2Proof.Machine

/-- `apply(T, v)`: output sequence bit `i` is input sequence bit `T[i]` (R13, R120). -/
def apply {w n : Nat} (t : IndexTable w n) (v : BitVec w) : BitVec n :=
  (BitVec.ofBoolListBE (t.entries.map v.getMsbD)).cast (by rw [List.length_map, t.length_eq])

/-- `v⟨i .. i+len-1⟩`, the slice of `len` sequence bits from `i` (00_scope.md R10). -/
def seqSlice {w : Nat} (v : BitVec w) (i len : Nat) : BitVec len := v.extractLsb' (w - i - len) len

/-- `C ‖ D`, the effective key of two half-keys (00_scope.md R10). -/
def joinKey (c d : HalfKey) : EffectiveKey := c ++ d

/-- `L ‖ R`, the block of two half-blocks (00_scope.md R10). -/
def joinBlock (l r : HalfBlock) : Block := l ++ r

/-- `rotl28(x, s)`, the cyclic left rotation of a 28-bit half-key (R121). -/
def rotl28 (x : HalfKey) (s : Nat) : HalfKey := x.rotateLeft s

/-- The rounds of the key schedule (R123, steps 2 and 3): C and D are rotated cumulatively, and each round key is
PC-2 of `C ‖ D`. -/
def keyRounds : List Nat → HalfKey → HalfKey → List RoundKey
  | [], _, _ => []
  | s :: ss, c, d => apply tablePC2 (joinKey (rotl28 c s) (rotl28 d s)) :: keyRounds ss (rotl28 c s) (rotl28 d s)

/-- The key schedule has one round key per entry of the rotation schedule. -/
theorem keyRounds_length (ss : List Nat) (c d : HalfKey) : (keyRounds ss c d).length = ss.length := by
  induction ss generalizing c d with
  | nil => rfl
  | cons s ss ih => simp only [keyRounds, List.length_cons, ih]

/-- The sixteen round keys of a RawKey as a list, `RK[1]` first (R123). -/
def keyScheduleList (key : Block) : List RoundKey :=
  let k56 := apply tablePC1 key
  keyRounds shifts (seqSlice k56 0 28) (seqSlice k56 28 28)

/-- `KS(key)`, `generate_round_keys` (R123). -/
def keySchedule (key : Block) : RoundKeys :=
  ⟨(keyScheduleList key).toArray, keyRounds_length shifts _ _⟩

/-- `Sbox(k, x)`: the first and last sequence bits of `x` choose the row and the middle four the column, each most
significant bit first (40_tables.md R108). -/
def sboxLookup (b : SBox) (x : BitVec 6) : BitVec 4 :=
  let bit := fun i => (x.getMsbD i).toNat
  let row := 2 * bit 0 + bit 5
  let col := 8 * bit 1 + 4 * bit 2 + 2 * bit 3 + bit 4
  BitVec.ofNat 4 ((b.rows.getD row []).getD col 0)

/-- `Subst(x)`, the S-box layer: S1 to S8 on eight consecutive 6-bit groups, concatenated in order (R126). -/
def subst (x : BitVec 48) : BitVec 32 :=
  sboxLookup sbox1 (seqSlice x 0 6) ++ sboxLookup sbox2 (seqSlice x 6 6) ++
  sboxLookup sbox3 (seqSlice x 12 6) ++ sboxLookup sbox4 (seqSlice x 18 6) ++
  sboxLookup sbox5 (seqSlice x 24 6) ++ sboxLookup sbox6 (seqSlice x 30 6) ++
  sboxLookup sbox7 (seqSlice x 36 6) ++ sboxLookup sbox8 (seqSlice x 42 6)

/-- `F(r, k)`, the round function (R127). -/
def roundF (r : HalfBlock) (k : RoundKey) : HalfBlock := apply tableP (subst (apply tableE r ^^^ k))

/-- The direction of the Feistel transform, which is the order of its round keys (R130). -/
inductive Direction where
  | encrypt
  | decrypt
  deriving DecidableEq, Repr

/-- One round: `(L, R) = (R, L ⊕ F(R, key))`, both right sides from the round before (R129). -/
def feistelRound (h : HalfBlock × HalfBlock) (k : RoundKey) : HalfBlock × HalfBlock :=
  (h.2, h.1 ^^^ roundF h.2 k)

/-- The round keys in the order they are used: ascending to encrypt, descending to decrypt (R130). -/
def keyOrder (rk : RoundKeys) : Direction → List RoundKey
  | .encrypt => rk.toList
  | .decrypt => rk.toList.reverse

/-- `T(block, rk, dir)`, the Feistel transform: IP, sixteen rounds, then IP⁻¹ of `R₁₆ ‖ L₁₆` (R129, R131). -/
def transform (block : Block) (rk : RoundKeys) (dir : Direction) : Block :=
  let b := apply tableIP block
  let h := (keyOrder rk dir).foldl feistelRound (seqSlice b 0 32, seqSlice b 32 32)
  apply tableIPInv (joinBlock h.2 h.1)

end Sys2Proof.Machine
end

