-- ==== Sys2Proof/Config.lean ====
section
/-! DEFINITION. The free values of the model: what the spec leaves unspecified or OPEN. None has a body, so no
proof can know a value of one, and a claim holds whatever they are. -/

namespace Sys2Proof

/-- `draw(64)` of the spec: the `n`-th unspecified value of a run (10_state.md R42, 20_memory.md R59;
93_implementation_defined.md U1 to U3). A narrower draw is this one truncated. Log entries 1, 2 and 3. -/
opaque Config.draw : Nat → BusWord

/-- The schedule of the `n`-th free choice: how many host operations may still land between the acceptance of a
command and its Engine step. It stands for the OPEN parameter LATENCY(op), which is finite (00_scope.md R7,
70_reset_and_hazards.md R242; 93_implementation_defined.md U4). Log entry 4. -/
opaque Config.schedule : Nat → Nat

end Sys2Proof
end

