-- ==== Sys2Proof/Machine/State.lean ====
section
/-! DEFINITION. The state of one engine instance (spec/10_state.md R21), the port through which the Host agent acts
on it, the reasons a step can stop, and the state after reset. -/

namespace Sys2Proof.Machine

/-- One operation of the Host or the platform on the engine, in the host's program order (10_state.md R20,
20_memory.md R68). -/
inductive HostOp where
  /-- `HostRead(a)` (20_memory.md R57, R59). -/
  | read (a : RegAddr)
  /-- `HostWrite(a, v)` (20_memory.md R52 to R56). -/
  | write (a : RegAddr) (v : BusWord)
  /-- `POLL`: read STATUS again and again until BUSY = 0 (30_encoding.md R90). -/
  | poll
  /-- RESET is asserted (70_reset_and_hazards.md R230). -/
  | reset
  deriving DecidableEq, Repr

/-- The whole state. The first eight fields are the spec's (10_state.md R21); the constant tables of R33 are
definitions in Machine/Tables.lean. The last four are the model's own: the Host agent's side of the port, and the
counters that schedule it and supply free values. -/
structure State where
  /-- KEY, the RawKey register (R22). -/
  key : BitVec 64
  /-- IV, the staging register of the initialization vector (R23). -/
  iv : BitVec 64
  /-- DIN, the data-in register (R24). -/
  din : BitVec 64
  /-- DOUT, the data-out register (R25). -/
  dout : BitVec 64
  /-- SR, the CFB shift register (R26). -/
  sr : BitVec 64
  /-- RK[1..16], the round-key file; `RK[i]` is index `i - 1` (R27). -/
  rk : Vector (BitVec 48) 16
  /-- STATUS, whose layout is R29. -/
  status : BitVec 32
  /-- PEND, the hidden latch of the pending command word (R28). -/
  pend : BitVec 32
  /-- What the Host and the platform have still to do, oldest first. -/
  hostOps : List HostOp
  /-- What the Host has read: register number and value, oldest first; of a POLL only the last read. -/
  hostReads : List (RegAddr × BusWord)
  /-- While BUSY = 1: how many more host operations may land before the Engine step. -/
  hostTurns : Nat
  /-- How many free values have been drawn. -/
  draws : Nat
  deriving DecidableEq, Repr

/-- The reasons the machine stops with a fault. There are none: there are no traps, every accepted command
completes, and an error is a code in STATUS.ERR (60_exceptions.md R209, 70_reset_and_hazards.md R242). The type is
empty, so no step can answer a fault. -/
inductive Fault where
  deriving DecidableEq, Repr

/-- The reasons a step can be refused. -/
inductive Refusal where
  /-- Raised only by an arm of `exec` whose instruction has no meaning yet (there is none); safe, since nothing is
  claimed of the state after it. -/
  | notModelled (mnemonic : String)
  deriving DecidableEq, Repr

/-- The engine right after a reset whose first free value is draw number `n` (10_state.md R42,
70_reset_and_hazards.md R230): STATUS is 0, so every valid flag, BUSY, OVR and ERR are 0; KEY, IV, DIN, DOUT, SR,
RK[1..16] and PEND each hold a draw of their width. The Host's side of the port is not part of the engine and is
given. Log entry 1. -/
def State.afterReset (n : Nat) (ops : List HostOp) (reads : List (RegAddr × BusWord)) : State where
  key := Config.draw n
  iv := Config.draw (n + 1)
  din := Config.draw (n + 2)
  dout := Config.draw (n + 3)
  sr := Config.draw (n + 4)
  rk := Vector.ofFn fun i => (Config.draw (n + 6 + i.val)).setWidth 48
  status := 0
  pend := (Config.draw (n + 5)).setWidth 32
  hostOps := ops
  hostReads := reads
  hostTurns := 0
  draws := n + 22

/-- The machine right after power-on reset, with no host operation placed (70_reset_and_hazards.md R230, R232). -/
def State.reset : State := State.afterReset 0 [] []

end Sys2Proof.Machine
end

