-- ==== Sys2Proof/Machine/Flags.lean ====
section
/-! DEFINITION. The fields of STATUS (spec/10_state.md R29, R41) and the error codes (spec/60_exceptions.md R200):
how each is read and written. There are no condition codes and no flag is computed from a data result (R36). -/

namespace Sys2Proof.Machine

/-- The one-bit fields of STATUS (R29). `rkv i` is the valid flag of `RK[i + 1]` (R41). -/
inductive Flag where
  | busy | kv | ivv | dv | srv | dov | ovr
  | rkv (i : Fin 16)
  deriving DecidableEq, Repr

/-- The bit number of a flag in STATUS, in integer numbering (R29, R41). -/
def Flag.bit : Flag → Nat
  | .busy => 0
  | .kv => 1
  | .ivv => 2
  | .dv => 3
  | .srv => 4
  | .dov => 5
  | .ovr => 6
  | .rkv i => 16 + i.val

/-- The valid flags, which only reset clears (R40). -/
def Flag.isValidFlag : Flag → Bool
  | .busy | .ovr => false
  | .kv | .ivv | .dv | .srv | .dov | .rkv _ => true

/-- The value of a flag in a status word. -/
def getFlag (w : StatusWord) (f : Flag) : Bool := w.getLsbD f.bit

/-- The status word with one flag set. -/
def setFlag (w : StatusWord) (f : Flag) : StatusWord := w ||| BitVec.twoPow 32 f.bit

/-- The status word with one flag cleared. -/
def clearFlag (w : StatusWord) (f : Flag) : StatusWord := w &&& ~~~(BitVec.twoPow 32 f.bit)

/-- ERR, bits [11:8] (R29). -/
def errField (w : StatusWord) : BitVec 4 := w.extractLsb' 8 4

/-- RKV, bits [31:16] (R29). -/
def rkvField (w : StatusWord) : BitVec 16 := w.extractLsb' 16 16

/-- The reserved bits [7] and [15:12] of a status word, gathered (R32). -/
def reservedField (w : StatusWord) : StatusWord := w &&& 0x0000F080#32

/-- `STATUS[31:16] <- 0xFFFF`: all round keys valid (42_commands.md R152, R155). -/
def setAllRkv (w : StatusWord) : StatusWord := w ||| 0xFFFF0000#32

/-- The outcome of a command, as ERR names it (60_exceptions.md R200). Codes 1 and 2 are defined and never raised
(R203, R204). -/
inductive ErrCode where
  | none
  | lengthMismatch
  | invalidTableIndex
  | illegalCommand
  | notReady
  deriving DecidableEq, Repr

/-- The number of an error code (60_exceptions.md R200). -/
def ErrCode.code : ErrCode → BitVec 4
  | .none => 0
  | .lengthMismatch => 1
  | .invalidTableIndex => 2
  | .illegalCommand => 3
  | .notReady => 4

/-- `ERR <- code` (10_state.md R30). -/
def putErr (w : StatusWord) (c : ErrCode) : StatusWord :=
  (w &&& 0xFFFFF0FF#32) ||| (c.code.setWidth 32 <<< 8)

/-- The value of a flag in the state's STATUS. -/
def State.flag (s : State) (f : Flag) : Bool := getFlag s.status f

/-- STATUS.ERR of the state. -/
def State.err (s : State) : BitVec 4 := errField s.status

/-- "All round keys valid": `STATUS[31:16] = 0xFFFF` (10_state.md R41). -/
def State.allRkv (s : State) : Bool := rkvField s.status == 0xFFFF#16

end Sys2Proof.Machine
end

