-- ==== Sys2Proof/Machine/Operands.lean ====
section
/-! DEFINITION. The operands of the commands: each is a fixed register (spec/30_encoding.md R81), and CFB_ENC and
CFB_DEC take the first `n` bits of DIN, zero-padded (R82; spec/41_primitives.md R132). -/

namespace Sys2Proof.Machine

/-- `pad(v, n)`: the first `n` sequence bits of `v`, the rest 0 (41_primitives.md R132). -/
def pad (v : Block) (n : Nat) : Block := v &&& (BitVec.allOnes 64 <<< (64 - n))

/-- `RK[i + 1]`, one register of the round-key file (10_state.md R27). -/
def State.roundKey (s : State) (i : Fin 16) : RoundKey := s.rk[i]

/-- The DIN operand of a CFB step on `n` message bits (42_commands.md R156, R157). -/
def State.paddedDin (s : State) (n : Nat) : Block := pad s.din n

/-- `T(DIN, [RK[1], ..., RK[16]], dir)`, the operand path of ENC and DEC (42_commands.md R153, R154). -/
def State.transformDin (s : State) (dir : Direction) : Block := transform s.din s.rk dir

/-- `o = T(SR, [RK[1], ..., RK[16]], Encrypt)`, the keystream block of a CFB step in either direction
(42_commands.md R156, R157). -/
def State.keystream (s : State) : Block := transform s.sr s.rk .encrypt

end Sys2Proof.Machine
end

