-- ==== Sys2Proof/Machine/Ops.lean ====
section
/-! DEFINITION. The named operations on the engine's registers: completing a command and raising an error, the
register writes of the commands, the host register space, and reset. There is no data memory: the register space is
the only address space (spec/20_memory.md R50). -/

namespace Sys2Proof.Machine

/-! ### Completion and errors -/

/-- `Complete(code)`: `ERR <- code; BUSY <- 0` (42_commands.md R150). -/
def complete (c : ErrCode) (s : State) : State :=
  { s with status := clearFlag (putErr s.status c) .busy }

/-- `raise Error(code)`: the one way an error is taken. The command ends with ERR = code and BUSY = 0, and nothing
else changes (00_scope.md R14; 60_exceptions.md R206, R209). There is no trap, saved state or return (R211). -/
def raiseError (c : ErrCode) (s : State) : State := complete c s

/-- The end of a legal command in state `s` whose effects give `t`: success if its Ready condition holds, else
NOT_READY with none of its effects (42_commands.md R150; 60_exceptions.md R207). -/
def runWhen (ready : Bool) (s t : State) : Host.Outcome State Fault Refusal :=
  if ready then .next (complete .none t) else .next (raiseError .notReady s)

/-! ### Register writes of the commands -/

/-- `OVR <- 0` (42_commands.md R151). -/
def clearOvr (s : State) : State := { s with status := clearFlag s.status .ovr }

/-- All sixteen round keys from KEY, and all of RKV set (42_commands.md R152, R155). -/
def loadRoundKeys (s : State) : State :=
  { s with rk := keySchedule s.key, status := setAllRkv s.status }

/-- `DOUT <- v; DOV <- 1` (42_commands.md R153, R154, R156, R157). -/
def writeDout (v : Block) (s : State) : State :=
  { s with dout := v, status := setFlag s.status .dov }

/-- `SR <- IV; SRV <- 1` (42_commands.md R155). -/
def seedSr (s : State) : State := { s with sr := s.iv, status := setFlag s.status .srv }

/-- `SR <- c`, the feedback of a CFB step (42_commands.md R156, R157). -/
def feedSr (c : Block) (s : State) : State := { s with sr := c }

/-! ### The host register space -/

/-- What a register number names (20_memory.md R51). -/
inductive HostReg where
  | key | iv | din | dout | sr | cmd | status | reserved
  | rk (i : Fin 16)
  deriving DecidableEq, Repr

/-- The register map (20_memory.md R51): `RK[i]` is at `0x10 + (i - 1)`. -/
def regAt (a : RegAddr) : HostReg :=
  if h : 16 ≤ a.toNat then .rk ⟨a.toNat - 16, by have := a.isLt; omega⟩
  else
    match a.toNat with
    | 0 => .key
    | 1 => .iv
    | 2 => .din
    | 3 => .dout
    | 4 => .sr
    | 5 => .cmd
    | 6 => .status
    | _ => .reserved

/-- What a read of a register returns when it is not under update: the content, zero-extended; CMD and the reserved
addresses read 0 (20_memory.md R57, R60, R63). -/
def regValue (s : State) : HostReg → BusWord
  | .key => s.key
  | .iv => s.iv
  | .din => s.din
  | .dout => s.dout
  | .sr => s.sr
  | .cmd => 0
  | .status => s.status.setWidth 64
  | .reserved => 0
  | .rk i => (s.roundKey i).setWidth 64

/-- `W(op)`: whether the command of opcode `op` writes the register on success (20_memory.md R59). -/
def inWriteSet (op : BitVec 4) : HostReg → Bool
  | .rk _ => op == 0x1 || op == 0x4
  | .dout => op == 0x2 || op == 0x3 || op == 0x5 || op == 0x6
  | .sr => op == 0x4 || op == 0x5 || op == 0x6
  | .key | .iv | .din | .cmd | .status | .reserved => false

/-- Whether a read of the register now returns an unspecified value (20_memory.md R59). Log entry 5. -/
def underUpdate (s : State) (r : HostReg) : Bool :=
  s.flag .busy && inWriteSet (s.pend.extractLsb' 0 4) r

/-- An unspecified value of the register's width, zero-extended to the bus (20_memory.md R59). -/
def drawnFor (n : Nat) : HostReg → BusWord
  | .rk _ => ((Config.draw n).setWidth 48).setWidth 64
  | .key | .iv | .din | .dout | .sr | .cmd | .status | .reserved => Config.draw n

/-- The value of `HostRead(a)` (20_memory.md R57, R59). -/
def hostReadValue (s : State) (a : RegAddr) : BusWord :=
  if underUpdate s (regAt a) then drawnFor s.draws (regAt a) else regValue s (regAt a)

/-- `HostRead(a)`: the value is recorded for the Host and no register changes (20_memory.md R57). An unspecified read
uses up one free value. Log entry 3. -/
def hostRead (a : RegAddr) (s : State) : State :=
  { s with
    hostReads := s.hostReads ++ [(a, hostReadValue s a)]
    draws := if underUpdate s (regAt a) then s.draws + 1 else s.draws }

/-- A CMD write while BUSY = 0 accepts the word unchecked: `PEND <- v[31:0]; BUSY <- 1` (20_memory.md R55). The
schedule of its Engine step is drawn here. Log entry 4. -/
def accept (v : BusWord) (s : State) : State :=
  { s with
    pend := v.setWidth 32
    status := setFlag s.status .busy
    hostTurns := Config.schedule s.draws
    draws := s.draws + 1 }

/-- `RK[i] <- v[47:0]; RKV[i] <- 1` (20_memory.md R54). -/
def writeRoundKey (i : Fin 16) (v : BusWord) (s : State) : State :=
  { s with rk := s.rk.set i (v.setWidth 48), status := setFlag s.status (.rkv i) }

/-- The effect of a host write while BUSY = 0 (20_memory.md R53 to R56). -/
def writeReg (v : BusWord) (s : State) : HostReg → State
  | .key => { s with key := v, status := setFlag s.status .kv }
  | .iv => { s with iv := v, status := setFlag s.status .ivv }
  | .din => { s with din := v, status := setFlag s.status .dv }
  | .cmd => accept v s
  | .rk i => writeRoundKey i v s
  | .dout | .sr | .status | .reserved => s

/-- A host write while BUSY = 1 is dropped: only OVR is set (20_memory.md R52). -/
def dropWrite (s : State) : State := { s with status := setFlag s.status .ovr }

/-- `HostWrite(a, v)` (20_memory.md R52 to R56). -/
def hostWrite (a : RegAddr) (v : BusWord) (s : State) : State :=
  if s.flag .busy then dropWrite s else writeReg v s (regAt a)

/-! ### Reset -/

/-- RESET asserted: every register takes its reset value in one step, and a pending command is aborted
(70_reset_and_hazards.md R230, R231). What the Host has still to do and has read is not the engine's state. -/
def assertReset (s : State) : State := State.afterReset s.draws s.hostOps s.hostReads

end Sys2Proof.Machine
end

