-- ==== Sys2Proof/Machine/Cfb.lean ====
section
/-! DEFINITION. The CFB commands CFB_INIT, CFB_ENC and CFB_DEC (spec/42_commands.md R155 to R157). -/

namespace Sys2Proof.Machine

/-- CFB_INIT (R155): ready when KV = 1 and IVV = 1; `RK <- KS(KEY)`, `SR <- IV`, RKV and SRV set. -/
def execCfbInit (s : State) : Host.Outcome State Fault Refusal :=
  runWhen (s.flag .kv && s.flag .ivv) s (seedSr (loadRoundKeys s))

/-- CFB_ENC (R156): ready when DV = 1, SRV = 1 and RKV = 0xFFFF; the ciphertext block `pad(DIN, n) ⊕ o` goes to DOUT
and is fed back to SR. -/
def execCfbEnc (n : Nat) (s : State) : Host.Outcome State Fault Refusal :=
  let c := s.paddedDin n ^^^ s.keystream
  runWhen (s.flag .dv && s.flag .srv && s.allRkv) s (feedSr c (writeDout c s))

/-- CFB_DEC (R157): ready as CFB_ENC; `pad(DIN, n) ⊕ o` goes to DOUT, and the padded input ciphertext is fed back to
SR. The keystream uses the Encrypt direction here too. -/
def execCfbDec (n : Nat) (s : State) : Host.Outcome State Fault Refusal :=
  let c := s.paddedDin n
  runWhen (s.flag .dv && s.flag .srv && s.allRkv) s (feedSr c (writeDout (c ^^^ s.keystream) s))

end Sys2Proof.Machine
end

