-- ==== Sys2Proof/Machine/Cipher.lean ====
section
/-! DEFINITION. The block-cipher commands KEYGEN, ENC and DEC (spec/42_commands.md R152 to R154). -/

namespace Sys2Proof.Machine

/-- KEYGEN (R152): ready when KV = 1; `RK[1..16] <- KS(KEY)`, RKV all set. -/
def execKeygen (s : State) : Host.Outcome State Fault Refusal :=
  runWhen (s.flag .kv) s (loadRoundKeys s)

/-- ENC (R153): ready when DV = 1 and RKV = 0xFFFF; `DOUT <- T(DIN, RK, Encrypt)`, DOV set. -/
def execEnc (s : State) : Host.Outcome State Fault Refusal :=
  runWhen (s.flag .dv && s.allRkv) s (writeDout (s.transformDin .encrypt) s)

/-- DEC (R154): ready when DV = 1 and RKV = 0xFFFF; `DOUT <- T(DIN, RK, Decrypt)`, DOV set. -/
def execDec (s : State) : Host.Outcome State Fault Refusal :=
  runWhen (s.flag .dv && s.allRkv) s (writeDout (s.transformDin .decrypt) s)

end Sys2Proof.Machine
end

