-- ==== Sys2Proof/Machine/Control.lean ====
section
/-! DEFINITION. The status command CLR and the reserved opcodes (spec/42_commands.md R151, R158). -/

namespace Sys2Proof.Machine

/-- CLR (R151): always ready; `OVR <- 0`, ERR = 0. -/
def execClr (s : State) : Host.Outcome State Fault Refusal := runWhen true s (clearOvr s)

/-- Reserved opcode 0x7 (R158): `Complete(ILLEGAL_COMMAND)`, whatever the other bits are. -/
def execReservedOp7 (_rest : BitVec 28) (s : State) : Host.Outcome State Fault Refusal :=
  .next (raiseError .illegalCommand s)

/-- Reserved opcodes 0x8 to 0xF (R158): `Complete(ILLEGAL_COMMAND)`, whatever the other bits are. -/
def execReservedOp8F (_op : BitVec 4) (_rest : BitVec 28) (s : State) : Host.Outcome State Fault Refusal :=
  .next (raiseError .illegalCommand s)

end Sys2Proof.Machine
end

