-- ==== Sys2Proof/Machine/Dispatch.lean ====
section
/-! DEFINITION. What each command does when the Engine performs it (spec/42_commands.md R150): one arm per command. -/

namespace Sys2Proof.Machine

/-- The effect of performing a command, its completion included (42_commands.md R151 to R158). -/
def exec (i : Instr) (s : State) : Host.Outcome State Fault Refusal :=
  match i with
  | .clr => Sys2Proof.Machine.execClr s
  | .keygen => Sys2Proof.Machine.execKeygen s
  | .enc => Sys2Proof.Machine.execEnc s
  | .dec => Sys2Proof.Machine.execDec s
  | .cfbInit => Sys2Proof.Machine.execCfbInit s
  | .cfbEnc n => Sys2Proof.Machine.execCfbEnc n s
  | .cfbDec n => Sys2Proof.Machine.execCfbDec n s
  | .reservedOp7 rest => Sys2Proof.Machine.execReservedOp7 rest s
  | .reservedOp8F op rest => Sys2Proof.Machine.execReservedOp8F op rest s

end Sys2Proof.Machine
end

