-- ==== Sys2Proof/Machine/Engine.lean ====
section
/-! DEFINITION. The Engine agent: it performs the pending command in one atomic step (spec/42_commands.md R150). -/

namespace Sys2Proof.Machine

/-- `Perform(w = PEND)`: legality first, then the command's own Ready condition and effects (42_commands.md R150).
A word that the decoder rejects completes with ILLEGAL_COMMAND, as a reserved opcode does (R158). -/
def perform (s : State) : Host.Outcome State Fault Refusal :=
  match decode s.pend with
  | .instr i => exec i s
  | .illegal _ => .next (raiseError .illegalCommand s)

end Sys2Proof.Machine
end

