-- ==== Sys2Proof/Machine/HostPort.lean ====
section
/-! DEFINITION. The Host agent: how its operations reach the engine, and which agent moves next (spec/10_state.md R20;
spec/20_memory.md R68). -/

namespace Sys2Proof.Machine

/-- Who takes the next step. -/
inductive Agent where
  /-- The Engine performs the pending command. -/
  | engine
  /-- The Host or the platform performs `op`; `rest` is left. -/
  | host (op : HostOp) (rest : List HostOp)
  /-- No command is pending and the Host does nothing. -/
  | nobody
  deriving DecidableEq, Repr

/-- Which agent moves next. A pending command is performed once its host turns are used up, or when the Host has
nothing to do; before that, host operations land in program order (20_memory.md R68; 70_reset_and_hazards.md R242).
Log entry 4. -/
def nextAgent (s : State) : Agent :=
  match s.hostOps with
  | [] => if s.flag .busy then .engine else .nobody
  | op :: rest => if s.flag .busy && s.hostTurns == 0 then .engine else .host op rest

/-- One STATUS read of a POLL: while BUSY = 1 the loop goes round again; with BUSY = 0 it ends and its value is the
result (30_encoding.md R90). -/
def pollStatus (s : State) : State :=
  if s.flag .busy then { s with hostOps := .poll :: s.hostOps } else hostRead 0x06 s

/-- The effect of one host operation that has been taken from the queue. -/
def performOp : HostOp → State → State
  | .read a, s => hostRead a s
  | .write a v, s => hostWrite a v s
  | .poll, s => pollStatus s
  | .reset, s => assertReset s

/-- The Host's step: the operation leaves the queue, uses up a host turn, and is performed. -/
def hostTurn (op : HostOp) (rest : List HostOp) (s : State) : State :=
  performOp op { s with hostOps := rest, hostTurns := s.hostTurns - 1 }

end Sys2Proof.Machine
end

