-- ==== Sys2Proof/Machine/Step.lean ====
section
/-! DEFINITION. One step of the machine: one atomic Engine step, one atomic host operation, or, where neither agent has
anything to do, nothing (spec/10_state.md R20; spec/20_memory.md R65, R68). -/

namespace Sys2Proof.Machine

/-- One step. -/
def step (s : State) : Host.Outcome State Fault Refusal :=
  match nextAgent s with
  | .engine => perform s
  | .host op rest => .next (hostTurn op rest s)
  | .nobody => .next s

/-- The state with the word `w` of `nbits` bits pending and its Engine step due at once. The engine fetches nothing
(20_memory.md R72): a command is the word that an accepted CMD write leaves in PEND with BUSY = 1 (R55). Log entry 6. -/
def State.withFetchWord (s : State) (nbits w : Nat) : State :=
  { s with
    pend := BitVec.ofNat 32 (w % 2 ^ nbits)
    status := setFlag s.status .busy
    hostTurns := 0 }

end Sys2Proof.Machine
end

