-- ==== Sys2Proof/Machine/HostProgram.lean ====
section
/-! DEFINITION. Host-program lines and the operations they expand to (spec/30_encoding.md R89, R90), and the host
sequence of a CFB message (spec/43_cfb_message.md R184). -/

namespace Sys2Proof.Machine

/-- `addr(reg)`, the register number of a named register (20_memory.md R51; 30_encoding.md R89). The reserved
addresses have no name; 0x07 stands for them. -/
def addrOf : HostReg → RegAddr
  | .key => 0x00
  | .iv => 0x01
  | .din => 0x02
  | .dout => 0x03
  | .sr => 0x04
  | .cmd => 0x05
  | .status => 0x06
  | .reserved => 0x07
  | .rk i => BitVec.ofNat 5 (16 + i.val)

/-- One line of a host program (30_encoding.md R89, R90). -/
inductive HostLine where
  /-- `WR <reg>, <hex64>` -/
  | wr (a : RegAddr) (v : BusWord)
  /-- `RD <reg>` -/
  | rd (a : RegAddr)
  /-- `CMD <MNEMONIC>[ nb=<k>]` -/
  | cmd (i : Instr)
  /-- `CMD <hex32>`, a raw word, which may be illegal -/
  | cmdRaw (w : CmdWord)
  /-- `POLL` -/
  | poll
  /-- `ISSUE <MNEMONIC>[ nb=<k>]` -/
  | issue (i : Instr)
  /-- `LOADKEY <hex64>` -/
  | loadKey (k : Block)
  /-- `ENCBLK <hex64>` -/
  | encBlk (b : Block)
  /-- `DECBLK <hex64>` -/
  | decBlk (b : Block)
  deriving DecidableEq, Repr

/-- The host operation that writes a command word to CMD (30_encoding.md R89). -/
def cmdOp (w : CmdWord) : HostOp := .write (addrOf .cmd) (w.setWidth 64)

/-- `ISSUE`: the CMD write, then a POLL (30_encoding.md R90). -/
def issueOps (i : Instr) : List HostOp := [cmdOp (encode i), .poll]

/-- One block command on an input block, and the read of its result (30_encoding.md R90; 43_cfb_message.md R184). -/
def blockOps (i : Instr) (d : Block) : List HostOp :=
  .write (addrOf .din) d :: issueOps i ++ [.read (addrOf .dout)]

/-- The host operations of a line (30_encoding.md R89, R90). -/
def HostLine.ops : HostLine → List HostOp
  | .wr a v => [.write a v]
  | .rd a => [.read a]
  | .cmd i => [cmdOp (encode i)]
  | .cmdRaw w => [cmdOp w]
  | .poll => [.poll]
  | .issue i => issueOps i
  | .loadKey k => .write (addrOf .key) k :: issueOps .keygen
  | .encBlk b => blockOps .enc b
  | .decBlk b => blockOps .dec b

/-- The start of a CFB message: `WR KEY; WR IV; ISSUE CFB_INIT` (43_cfb_message.md R184). -/
def cfbStartOps (key iv : Block) : List HostOp :=
  .write (addrOf .key) key :: .write (addrOf .iv) iv :: issueOps .cfbInit

/-- The host sequence of `cfb_encrypt` for written segments and their lengths (43_cfb_message.md R184). -/
def cfbEncryptOps (key iv : Block) (segs : List (Block × Nat)) : List HostOp :=
  cfbStartOps key iv ++ segs.flatMap fun d => blockOps (.cfbEnc d.2) d.1

/-- The host sequence of `cfb_decrypt` for written segments and their lengths (43_cfb_message.md R184). -/
def cfbDecryptOps (key iv : Block) (segs : List (Block × Nat)) : List HostOp :=
  cfbStartOps key iv ++ segs.flatMap fun d => blockOps (.cfbDec d.2) d.1

end Sys2Proof.Machine
end

