-- ==== Sys2Proof/Machine/Message.lean ====
section
/-! DEFINITION. CFB message processing (spec/43_cfb_message.md): segmentation of a bit message into blocks and the
message functions `cfb_encrypt` and `cfb_decrypt`. The engine has no message command; a Host computes a message by one
command per segment (Machine/HostProgram.lean). -/

namespace Sys2Proof.Machine

/-- The block whose sequence bit `t` is `f t` (00_scope.md R8). -/
def blockOf (f : Nat → Bool) : Block :=
  (BitVec.ofBoolListBE ((List.range 64).map f)).cast (by rw [List.length_map, List.length_range])

/-- The 64 sequence bits of a block, in order. -/
def blockBits (b : Block) : List Bool := (List.range 64).map b.getMsbD

/-- `k = ceil(n / 64)`, the number of segments of a message of `n` bits; none for the empty message (R180). -/
def segCount (n : Nat) : Nat := (n + 63) / 64

/-- `len_j`, the number of message bits in segment `j` of a message of `n` bits (R180). -/
def segLen (n j : Nat) : Nat := if j + 1 < segCount n then 64 else n - 64 * (segCount n - 1)

/-- `seg_j`: message bits `64j` onward, zero-padded after the message's last bit (R180, R181). -/
def segment (m : List Bool) (j : Nat) : Block := blockOf fun t => m.getD (64 * j + t) false

/-- All segments of a message, in order (R180). -/
def segments (m : List Bool) : List Block := (List.range (segCount m.length)).map (segment m)

/-- The lengths of the segments of a message of `n` bits, in order (R180). -/
def segLens (n : Nat) : List Nat := (List.range (segCount n)).map (segLen n)

/-- The keystream block of a chain value (R182). -/
def chainKey (rk : RoundKeys) (sr : Block) : Block := transform sr rk .encrypt

/-- The ciphertext blocks of a chain: each is fed back as the next chain value (R182). -/
def encryptChain (rk : RoundKeys) : Block → List Block → List Block
  | _, [] => []
  | sr, p :: ps => (p ^^^ chainKey rk sr) :: encryptChain rk (p ^^^ chainKey rk sr) ps

/-- The plaintext blocks of a chain: the ciphertext segment is fed back, and the keystream is the Encrypt direction's
(R183). -/
def decryptChain (rk : RoundKeys) : Block → List Block → List Block
  | _, [] => []
  | sr, c :: cs => (c ^^^ chainKey rk sr) :: decryptChain rk c cs

/-- The keystream blocks `o_0, o_1, ...` of an encryption (R182). -/
def keystreamChain (rk : RoundKeys) : Block → List Block → List Block
  | _, [] => []
  | sr, p :: ps => chainKey rk sr :: keystreamChain rk (p ^^^ chainKey rk sr) ps

/-- `cfb_encrypt(iv, M, key)`: whole blocks, not trimmed to the message's length (R182). -/
def cfbEncrypt (iv : Block) (m : List Bool) (key : Block) : List Bool :=
  (encryptChain (keySchedule key) iv (segments m)).flatMap blockBits

/-- `cfb_decrypt(iv, C, key)` (R183). -/
def cfbDecrypt (iv : Block) (c : List Bool) (key : Block) : List Bool :=
  (decryptChain (keySchedule key) iv (segments c)).flatMap blockBits

end Sys2Proof.Machine
end

