-- ==== Sys2Proof/Safety.lean ====
section
/-! DEFINITION. The terms in which claims about a run are made: how a status word changes, which states are sound, and
what two states must share for their unspecified contents not to matter. -/

namespace Sys2Proof.Machine

/-- The sixteen RKV flags (10_state.md R41). -/
def Flag.allRkv : List Flag :=
  [.rkv 0, .rkv 1, .rkv 2, .rkv 3, .rkv 4, .rkv 5, .rkv 6, .rkv 7,
   .rkv 8, .rkv 9, .rkv 10, .rkv 11, .rkv 12, .rkv 13, .rkv 14, .rkv 15]

/-- The flags of `new` are those of `old`, but for the ones set and the ones cleared, and the reserved bits are kept. -/
def FlagsFrom (old new : StatusWord) (set cleared : List Flag) : Prop :=
  reservedField new = reservedField old ∧
    ∀ f, getFlag new f = if f ∈ set then true else if f ∈ cleared then false else getFlag old f

/-- `new` is `old` after a command's completion with code `e` that sets and clears the given flags beside BUSY. -/
def CompletedFrom (old new : StatusWord) (e : ErrCode) (set cleared : List Flag) : Prop :=
  errField new = e.code ∧ FlagsFrom old new set (.busy :: cleared)

/-- STATUS is one that the rules allow: the reserved bits read 0 (10_state.md R32) and ERR is 0, 3 or 4 (R44). -/
def State.SafeStatus (s : State) : Prop :=
  reservedField s.status = 0 ∧ (s.err = 0 ∨ s.err = 3 ∨ s.err = 4)

/-- The valid flags of results imply those of the inputs the results came from (10_state.md R40). -/
def State.FlagsCoherent (s : State) : Prop :=
  (s.flag .srv = true → s.flag .kv = true ∧ s.flag .ivv = true ∧ s.allRkv = true) ∧
    (s.flag .dov = true → s.flag .dv = true ∧ s.allRkv = true)

/-- The Ready condition of a command's rule (42_commands.md R151 to R157); a reserved opcode's is never evaluated
(R158). -/
def ready (s : State) : Instr → Bool
  | .clr => true
  | .keygen => s.flag .kv
  | .enc | .dec => s.flag .dv && s.allRkv
  | .cfbInit => s.flag .kv && s.flag .ivv
  | .cfbEnc _ | .cfbDec _ => s.flag .dv && s.flag .srv && s.allRkv
  | .reservedOp7 _ | .reservedOp8F _ _ => false

/-- The two states hold the same engine: every register of 10_state.md R21. -/
def SameEngine (s t : State) : Prop :=
  t.key = s.key ∧ t.iv = s.iv ∧ t.din = s.din ∧ t.dout = s.dout ∧ t.sr = s.sr ∧ t.rk = s.rk ∧
    t.status = s.status ∧ t.pend = s.pend

/-- The two states agree on STATUS, on PEND while BUSY = 1, on the schedule, on what the Host has still to do, and on
every register whose valid flag is 1; a register whose flag is 0 may hold anything (10_state.md R40, R43). What the
Host has read is left out. -/
def AgreeOnValid (s t : State) : Prop :=
  s.status = t.status ∧ s.hostOps = t.hostOps ∧ s.hostTurns = t.hostTurns ∧ s.draws = t.draws ∧
    (s.flag .busy = true → s.pend = t.pend) ∧
    (s.flag .kv = true → s.key = t.key) ∧
    (s.flag .ivv = true → s.iv = t.iv) ∧
    (s.flag .dv = true → s.din = t.din) ∧
    (s.flag .srv = true → s.sr = t.sr) ∧
    (s.flag .dov = true → s.dout = t.dout) ∧
    (∀ i, s.flag (.rkv i) = true → s.roundKey i = t.roundKey i)

/-- The Engine moves next and performs the command `i` (42_commands.md R150). -/
def Performs (s : State) (i : Instr) : Prop := nextAgent s = .engine ∧ decode s.pend = .instr i

/-- The Host moves next and performs the operation `op` (20_memory.md R68). -/
def HostDoes (s : State) (op : HostOp) : Prop := ∃ rest, nextAgent s = .host op rest

/-- The values the Host has read from register `a` since it had read `n` values. -/
def readsOf (a : RegAddr) (n : Nat) (s : State) : List BusWord :=
  ((s.hostReads.drop n).filter fun r => r.1 == a).map Prod.snd

end Sys2Proof.Machine
end

