-- ==== Sys2Proof/Certificates/Slice0/Obligations.lean ====
section
/-! DEFINITION. The statements about the DES-CFB cipher engine, each from the numbered rules of spec/. A statement about
a status word says each flag, ERR and the reserved bits of the new word from the old one, so it fixes the word. -/

open Sys2Proof Sys2Proof.Machine

/-! ### The command word -/

/-- 30_encoding.md R84, R82: the encoding of every well-formed instruction decodes to it, with every operand value. -/
def Obligations.DecodeOfEncodeIsTheInstruction : Prop :=
  ∀ i : Instr, i.wellFormed = true → decode (encode i) = .instr i

/-- 30_encoding.md R84, R82: a word that decodes to an instruction is the encoding of that instruction, which is
well-formed; so no bit of a word is dropped. -/
def Obligations.EncodeOfDecodeIsTheWord : Prop :=
  ∀ (w : CmdWord) (i : Instr), decode w = .instr i → i.wellFormed = true ∧ encode i = w

/-- 30_encoding.md R85: the legal words are the 133 listed ones, they are those that decode to a command that is not
reserved, and 133 words of the first 1024 are legal. -/
def Obligations.LegalWordsAreTheListedOnes : Prop :=
  (∀ w : CmdWord, legal w = true ↔
    (w = 0 ∨ w = 1 ∨ w = 2 ∨ w = 3 ∨ w = 4 ∨
      ∃ k : Fin 64, w = 0x5#32 ||| (BitVec.ofNat 32 k.val <<< 4) ∨ w = 0x6#32 ||| (BitVec.ofNat 32 k.val <<< 4))) ∧
  (∀ w : CmdWord, legal w = true ↔ ∃ i, decode w = .instr i ∧ i.isReserved = false) ∧
  ((List.range 1024).filter fun n => legal (BitVec.ofNat 32 n)).length = 133

/-- 30_encoding.md R86: NB ≠ 0 on OP 0x0 to 0x4 makes the word illegal, performing it completes with ILLEGAL_COMMAND
and no other effect, and each command has one encoding. -/
def Obligations.NbOnOtherCommandsIsIllegal : Prop :=
  (∀ w : CmdWord, (opField w).toNat ≤ 4 → nbField w ≠ 0 → legal w = false) ∧
  (∀ s : State, nextAgent s = .engine → (opField s.pend).toNat ≤ 4 → nbField s.pend ≠ 0 →
    ∃ st, CompletedFrom s.status st .illegalCommand [] [] ∧ step s = .next { s with status := st }) ∧
  (∀ (w w' : CmdWord) (i : Instr), decode w = .instr i → decode w' = .instr i → w = w')

/-- 30_encoding.md R83: a word with a bit of [31:10] set is illegal, and performing it completes with ILLEGAL_COMMAND
and no other effect. -/
def Obligations.ReservedBitsAreIllegal : Prop :=
  (∀ w : CmdWord, resField w ≠ 0 → legal w = false) ∧
  (∀ s : State, nextAgent s = .engine → resField s.pend ≠ 0 →
    ∃ st, CompletedFrom s.status st .illegalCommand [] [] ∧ step s = .next { s with status := st })

/-- 30_encoding.md, the examples the spec marks as derived from R80, R82, R84 and R85: each word decodes as said. The
name of a rejection is the model's (log entry 8). -/
def Obligations.ExampleWordsDecode : Prop :=
  decode 0x00000001 = .instr .keygen ∧
  decode 0x00000005 = .instr (.cfbEnc 64) ∧
  decode 0x00000385 = .instr (.cfbEnc 56) ∧
  decode 0x00000016 = .instr (.cfbDec 1) ∧
  (decode 0x00000011 = .illegal .nbNotAllowed ∧ legal 0x00000011 = false) ∧
  (decode 0x00000007 = .instr (.reservedOp7 0) ∧ legal 0x00000007 = false) ∧
  (decode 0x00000405 = .illegal .reservedBitsSet ∧ legal 0x00000405 = false)

/-! ### The step -/

/-- 42_commands.md R150, 20_memory.md R68: who moves next, and what the step then is: the Engine performs the decoded
pending word, the Host performs its next operation, or nothing happens. A host operation is HostRead, HostWrite, one
STATUS read of a POLL (30_encoding.md R90), or RESET. Which agent moves next, and the queue of host
operations, are the model's choice (log entries 4 and 7). -/
def Obligations.StepRunsTheDecodedCommand : Prop :=
  (∀ s : State, nextAgent s = .engine ↔ s.flag .busy = true ∧ (s.hostOps = [] ∨ s.hostTurns = 0)) ∧
  (∀ (s : State) (i : Instr), nextAgent s = .engine → decode s.pend = .instr i → step s = exec i s) ∧
  (∀ (s : State) (r : IllegalReason), nextAgent s = .engine → decode s.pend = .illegal r →
    step s = .next (raiseError .illegalCommand s)) ∧
  (∀ (s : State) (op : HostOp) (rest : List HostOp), nextAgent s = .host op rest →
    step s = .next (performOp op { s with hostOps := rest, hostTurns := s.hostTurns - 1 })) ∧
  (∀ s : State,
    (∀ a, performOp (.read a) s = hostRead a s) ∧
    (∀ a v, performOp (.write a v) s = hostWrite a v s) ∧
    performOp .poll s = (if s.flag .busy then { s with hostOps := .poll :: s.hostOps } else hostRead 0x06 s) ∧
    performOp .reset s = assertReset s) ∧
  (∀ s : State, nextAgent s = .nobody → step s = .next s)

/-- 60_exceptions.md R209, 42_commands.md R150, 70_reset_and_hazards.md R242: no step stops the machine, and an Engine
step completes the pending command, so BUSY = 0 after it. That a machine with nothing to do steps to itself is the
model's choice (log entry 6). -/
def Obligations.EveryStepAnswersANextState : Prop :=
  ∀ s : State, ∃ t, step s = .next t ∧ (nextAgent s = .engine → t.flag .busy = false)

/-! ### The commands -/

/-- 42_commands.md R151: CLR always succeeds; it clears ERR, OVR and BUSY and nothing else. -/
def Obligations.ClrClearsErrAndOvr : Prop :=
  ∀ s : State, ∃ st, CompletedFrom s.status st .none [] [.ovr] ∧ exec .clr s = .next { s with status := st }

/-- 42_commands.md R152: KEYGEN with KV = 1 writes the key schedule of KEY to all sixteen round keys. -/
def Obligations.KeygenWritesTheKeySchedule : Prop :=
  ∀ s : State, s.flag .kv = true →
    ∃ st, CompletedFrom s.status st .none Flag.allRkv [] ∧
      exec .keygen s = .next { s with rk := keySchedule s.key, status := st }

/-- 42_commands.md R153: ENC with DV = 1 and RKV = 0xFFFF writes the encryption of DIN to DOUT. -/
def Obligations.EncWritesTheEncryptedBlock : Prop :=
  ∀ s : State, s.flag .dv = true → s.allRkv = true →
    ∃ st, CompletedFrom s.status st .none [.dov] [] ∧
      exec .enc s = .next { s with dout := transform s.din s.rk .encrypt, status := st }

/-- 42_commands.md R154: DEC with DV = 1 and RKV = 0xFFFF writes the decryption of DIN to DOUT. -/
def Obligations.DecWritesTheDecryptedBlock : Prop :=
  ∀ s : State, s.flag .dv = true → s.allRkv = true →
    ∃ st, CompletedFrom s.status st .none [.dov] [] ∧
      exec .dec s = .next { s with dout := transform s.din s.rk .decrypt, status := st }

/-- 42_commands.md R155: CFB_INIT with KV = IVV = 1 derives the round keys and seeds SR from IV. -/
def Obligations.CfbInitDerivesKeysAndSeedsSr : Prop :=
  ∀ s : State, s.flag .kv = true → s.flag .ivv = true →
    ∃ st, CompletedFrom s.status st .none (.srv :: Flag.allRkv) [] ∧
      exec .cfbInit s = .next { s with rk := keySchedule s.key, sr := s.iv, status := st }

/-- 42_commands.md R156: CFB_ENC with DV = SRV = 1 and RKV = 0xFFFF writes the ciphertext block to DOUT and SR. -/
def Obligations.CfbEncWritesTheCiphertextBlock : Prop :=
  ∀ (s : State) (n : Nat), s.flag .dv = true → s.flag .srv = true → s.allRkv = true →
    ∃ st, CompletedFrom s.status st .none [.dov] [] ∧
      exec (.cfbEnc n) s = .next { s with
        dout := pad s.din n ^^^ transform s.sr s.rk .encrypt
        sr := pad s.din n ^^^ transform s.sr s.rk .encrypt
        status := st }

/-- 42_commands.md R157: CFB_DEC with DV = SRV = 1 and RKV = 0xFFFF writes the plaintext block to DOUT and the padded
ciphertext to SR, with the Encrypt direction. -/
def Obligations.CfbDecWritesThePlaintextBlock : Prop :=
  ∀ (s : State) (n : Nat), s.flag .dv = true → s.flag .srv = true → s.allRkv = true →
    ∃ st, CompletedFrom s.status st .none [.dov] [] ∧
      exec (.cfbDec n) s = .next { s with
        dout := pad s.din n ^^^ transform s.sr s.rk .encrypt
        sr := pad s.din n
        status := st }

/-- 42_commands.md R158: performing a reserved opcode or any other illegal word completes with ILLEGAL_COMMAND and
changes nothing else, in every state. -/
def Obligations.IllegalWordsCompleteWithIllegalCommand : Prop :=
  (∀ (s : State) (rest : BitVec 28),
    ∃ st, CompletedFrom s.status st .illegalCommand [] [] ∧
      exec (.reservedOp7 rest) s = .next { s with status := st }) ∧
  (∀ (s : State) (op : BitVec 4) (rest : BitVec 28),
    ∃ st, CompletedFrom s.status st .illegalCommand [] [] ∧
      exec (.reservedOp8F op rest) s = .next { s with status := st }) ∧
  (∀ s : State, nextAgent s = .engine → legal s.pend = false →
    ∃ st, CompletedFrom s.status st .illegalCommand [] [] ∧ step s = .next { s with status := st })

/-- 60_exceptions.md R202: a legal command with an input whose valid flag is 0 completes with NOT_READY and changes
nothing else. -/
def Obligations.MissingInputRaisesNotReady : Prop :=
  ∀ (s : State) (n : Nat), ∃ st, CompletedFrom s.status st .notReady [] [] ∧
    (s.flag .kv = false → exec .keygen s = .next { s with status := st }) ∧
    (s.flag .dv = false ∨ s.allRkv = false → exec .enc s = .next { s with status := st }) ∧
    (s.flag .dv = false ∨ s.allRkv = false → exec .dec s = .next { s with status := st }) ∧
    (s.flag .kv = false ∨ s.flag .ivv = false → exec .cfbInit s = .next { s with status := st }) ∧
    (s.flag .dv = false ∨ s.flag .srv = false ∨ s.allRkv = false →
      exec (.cfbEnc n) s = .next { s with status := st }) ∧
    (s.flag .dv = false ∨ s.flag .srv = false ∨ s.allRkv = false →
      exec (.cfbDec n) s = .next { s with status := st })

/-- 60_exceptions.md R206: a command that completes with ERR ≠ 0 changes exactly ERR and BUSY. -/
def Obligations.FailedCommandChangesOnlyErrAndBusy : Prop :=
  ∀ s t : State, nextAgent s = .engine → step s = .next t → t.err ≠ 0 →
    ∃ e st, CompletedFrom s.status st e [] [] ∧ t = { s with status := st }

/-- 60_exceptions.md R207: legality is checked before readiness, each command reports one outcome, and a dropped host
write sets OVR and does not touch ERR. -/
def Obligations.ErrorPriority : Prop :=
  (∀ s : State, nextAgent s = .engine → legal s.pend = false → ∃ t, step s = .next t ∧ t.err = 3) ∧
  (∀ (s : State) (i : Instr), nextAgent s = .engine → legal s.pend = true → decode s.pend = .instr i →
    ∃ t, step s = .next t ∧ t.err = if ready s i = true then 0 else 4) ∧
  (∀ (s : State) (a : RegAddr) (v : BusWord), s.flag .busy = true →
    (hostWrite a v s).flag .ovr = true ∧ (hostWrite a v s).err = s.err)

/-! ### Host transactions -/

/-- 20_memory.md R52: a host write while BUSY = 1 changes nothing but OVR, at every address. -/
def Obligations.WriteWhileBusyIsDropped : Prop :=
  ∀ (s : State) (a : RegAddr) (v : BusWord), s.flag .busy = true →
    ∃ st, FlagsFrom s.status st [.ovr] [] ∧ errField st = errField s.status ∧
      hostWrite a v s = { s with status := st }

/-- 20_memory.md R53: host writes of KEY, IV and DIN while BUSY = 0. -/
def Obligations.HostWritesDataRegisters : Prop :=
  ∀ (s : State) (v : BusWord), s.flag .busy = false →
    (∃ st, FlagsFrom s.status st [.kv] [] ∧ errField st = errField s.status ∧
      hostWrite 0x00 v s = { s with key := v, status := st }) ∧
    (∃ st, FlagsFrom s.status st [.ivv] [] ∧ errField st = errField s.status ∧
      hostWrite 0x01 v s = { s with iv := v, status := st }) ∧
    (∃ st, FlagsFrom s.status st [.dv] [] ∧ errField st = errField s.status ∧
      hostWrite 0x02 v s = { s with din := v, status := st })

/-- 20_memory.md R54: a host write of RK[i] while BUSY = 0 takes v[47:0] and sets its RKV bit. -/
def Obligations.HostWritesRoundKey : Prop :=
  ∀ (s : State) (a : RegAddr) (v : BusWord) (i : Fin 16), s.flag .busy = false → a.toNat = 16 + i.val →
    ∃ st, FlagsFrom s.status st [.rkv i] [] ∧ errField st = errField s.status ∧
      hostWrite a v s = { s with rk := s.rk.set i (v.setWidth 48), status := st }

/-- 20_memory.md R55: a CMD write while BUSY = 0 accepts every word: PEND takes v[31:0] and BUSY is set. The schedule
and the count of free values are the model's own fields and may change (log entry 4). -/
def Obligations.CmdWriteAcceptsEveryWord : Prop :=
  ∀ (s : State) (v : BusWord), s.flag .busy = false →
    ∃ st turns draws, FlagsFrom s.status st [.busy] [] ∧ errField st = errField s.status ∧
      hostWrite 0x05 v s =
        { s with pend := v.setWidth 32, status := st, hostTurns := turns, draws := draws }

/-- 20_memory.md R56: host writes of the read-only and reserved registers while BUSY = 0 change nothing. -/
def Obligations.ReadOnlyAndReservedWritesAreIgnored : Prop :=
  ∀ (s : State) (a : RegAddr) (v : BusWord), s.flag .busy = false →
    (a = 0x03 ∨ a = 0x04 ∨ a = 0x06 ∨ 7 ≤ a.toNat ∧ a.toNat ≤ 15) → hostWrite a v s = s

/-- 20_memory.md R57: a host read changes no register in any state, and with BUSY = 0 it returns the register's
content. The model's own record of reads and count of free values are no registers (log entries 3 and 7). -/
def Obligations.HostReadReturnsTheRegister : Prop :=
  (∀ (s : State) (a : RegAddr), SameEngine s (hostRead a s)) ∧
  (∀ s : State, s.flag .busy = false →
    hostReadValue s 0x00 = s.key ∧ hostReadValue s 0x01 = s.iv ∧ hostReadValue s 0x02 = s.din ∧
    hostReadValue s 0x03 = s.dout ∧ hostReadValue s 0x04 = s.sr ∧ hostReadValue s 0x05 = 0 ∧
    hostReadValue s 0x06 = s.status.setWidth 64 ∧
    (∀ a : RegAddr, 7 ≤ a.toNat → a.toNat ≤ 15 → hostReadValue s a = 0) ∧
    (∀ (a : RegAddr) (i : Fin 16), a.toNat = 16 + i.val →
      hostReadValue s a = (s.rk[i]).setWidth 64))

/-- 20_memory.md R60: CMD and the reserved addresses read 0 in every state. -/
def Obligations.CmdAndReservedAddressesReadZero : Prop :=
  ∀ (s : State) (a : RegAddr), a = 0x05 ∨ 7 ≤ a.toNat ∧ a.toNat ≤ 15 → hostReadValue s a = 0

/-- 20_memory.md R59, 70_reset_and_hazards.md R241: while BUSY = 1 a register that the pending opcode does not write
reads as its content, and STATUS as it stands. A register in W(op) reads as an unspecified value of its width, whatever
it holds. That this value is the next free value, and that a read uses it up, are the model's choice (log entry 3); that
the pending OP decides also for an illegal word is the model's reading (log entry 5). -/
def Obligations.BusyReadIsFreeExactlyInTheWriteSet : Prop :=
  ∀ s : State, s.flag .busy = true →
    (hostReadValue s 0x00 = s.key ∧ hostReadValue s 0x01 = s.iv ∧ hostReadValue s 0x02 = s.din ∧
      hostReadValue s 0x06 = s.status.setWidth 64) ∧
    (if (opField s.pend).toNat ∈ [2, 3, 5, 6] then
      (∀ dout, hostReadValue { s with dout := dout } 0x03 = Config.draw s.draws) ∧
        (hostRead 0x03 s).draws = s.draws + 1
    else hostReadValue s 0x03 = s.dout) ∧
    (if (opField s.pend).toNat ∈ [4, 5, 6] then
      (∀ sr, hostReadValue { s with sr := sr } 0x04 = Config.draw s.draws) ∧
        (hostRead 0x04 s).draws = s.draws + 1
    else hostReadValue s 0x04 = s.sr) ∧
    ∀ (a : RegAddr) (i : Fin 16), a.toNat = 16 + i.val →
      if (opField s.pend).toNat ∈ [1, 4] then
        (∀ rk, hostReadValue { s with rk := rk } a = ((Config.draw s.draws).setWidth 48).setWidth 64) ∧
          (hostRead a s).draws = s.draws + 1
      else hostReadValue s a = (s.rk[i]).setWidth 64

/-- 20_memory.md R66: reads have no side effect on what a later read returns from a register not under update, and
writes of KEY, IV, DIN and RK[i] while BUSY = 0 are idempotent. In every state a read returns its value to the Host,
which the model does by recording it (log entry 7). -/
def Obligations.ReadsAndDataWritesAreIdempotent : Prop :=
  (∀ (s : State) (a : RegAddr), (hostRead a s).hostReads = s.hostReads ++ [(a, hostReadValue s a)]) ∧
  (∀ (s : State) (a b : RegAddr), s.flag .busy = false → hostReadValue (hostRead a s) b = hostReadValue s b) ∧
  (∀ (s : State) (a : RegAddr) (v : BusWord), s.flag .busy = false → a.toNat < 3 ∨ 16 ≤ a.toNat →
    hostWrite a v (hostWrite a v s) = hostWrite a v s)

/-! ### Reset -/

/-- 10_state.md R42, 70_reset_and_hazards.md R230, R232: after power-on STATUS is 0 and the engine is idle. That no
agent moves before a host operation is placed is the model's choice (log entry 6). -/
def Obligations.ResetLeavesStatusZeroAndIdle : Prop :=
  State.reset.status = 0 ∧ (∀ f, State.reset.flag f = false) ∧ State.reset.err = 0 ∧
    nextAgent State.reset = .nobody

/-- 70_reset_and_hazards.md R230, R231, 10_state.md R42: a reset step, from every state, answers the state whose STATUS
is 0, so that a pending command is aborted, and whose KEY, IV, DIN, DOUT, SR, RK and PEND are unspecified, each a free
value of its width. Which free values they are is the model's choice (log entries 1 and 2), and so is that the Host's
queue and its reads are kept (log entry 10). -/
def Obligations.ResetStepDrawsEveryRegister : Prop :=
  ∀ (s : State) (rest : List HostOp), nextAgent s = .host .reset rest →
    step s = .next (assertReset { s with hostOps := rest }) ∧
    assertReset { s with hostOps := rest } =
      { key := Config.draw s.draws
        iv := Config.draw (s.draws + 1)
        din := Config.draw (s.draws + 2)
        dout := Config.draw (s.draws + 3)
        sr := Config.draw (s.draws + 4)
        rk := Vector.ofFn fun i => (Config.draw (s.draws + 6 + i.val)).setWidth 48
        status := 0
        pend := (Config.draw (s.draws + 5)).setWidth 32
        hostOps := rest
        hostReads := s.hostReads
        hostTurns := 0
        draws := s.draws + 22 }

/-! ### What every step keeps -/

/-- 10_state.md R32, R44: the reserved bits of STATUS read 0 and ERR is 0, 3 or 4 after every step. -/
def Obligations.SafeStatusIsKept : Prop :=
  ∀ s t : State, s.SafeStatus → step s = .next t → t.SafeStatus

/-- 10_state.md R40: SRV implies KV, IVV and all of RKV, and DOV implies DV and all of RKV, after every step. -/
def Obligations.FlagsCoherentIsKept : Prop :=
  ∀ s t : State, s.FlagsCoherent → step s = .next t → t.FlagsCoherent

/-- 10_state.md R32, R40, R42: the state after reset meets both invariants. -/
def Obligations.ResetMeetsTheInvariants : Prop := State.reset.SafeStatus ∧ State.reset.FlagsCoherent

/-- 10_state.md R40: only reset clears a valid flag. -/
def Obligations.OnlyResetClearsAValidFlag : Prop :=
  ∀ (s t : State) (f : Flag), f.isValidFlag = true → s.flag f = true → step s = .next t →
    t.flag f = true ∨ HostDoes s .reset

/-- 10_state.md R31: once set, OVR stays 1 until a completed CLR or a reset. -/
def Obligations.OvrIsSticky : Prop :=
  ∀ s t : State, s.flag .ovr = true → step s = .next t →
    t.flag .ovr = true ∨ Performs s .clr ∨ HostDoes s .reset

/-- 10_state.md R30: ERR changes only at a command's completion or a reset, and every completion writes it: 0 exactly
when the command was legal and ready. -/
def Obligations.ErrIsWrittenAtCompletion : Prop :=
  (∀ s t : State, step s = .next t → nextAgent s ≠ .engine → t.err = s.err ∨ HostDoes s .reset) ∧
  (∀ s t : State, step s = .next t → nextAgent s = .engine →
    (t.err = 0 ↔ ∃ i, decode s.pend = .instr i ∧ ready s i = true))

/-- 10_state.md R26: SR changes only by CFB_INIT, which loads IV, by a CFB_ENC or CFB_DEC, which loads the ciphertext
block, or by reset. -/
def Obligations.SrChangesOnlyByCfbCommands : Prop :=
  ∀ s t : State, step s = .next t →
    t.sr = s.sr ∨ HostDoes s .reset ∨
    (Performs s .cfbInit ∧ t.sr = s.iv) ∨
    (∃ n, Performs s (.cfbEnc n) ∧ t.sr = t.dout) ∨
    (∃ n, Performs s (.cfbDec n) ∧ t.sr = pad s.din n)

/-- 10_state.md R21 to R28: every other register changes only by the agents its row names, or by reset. -/
def Obligations.RegistersChangeOnlyByTheirWriters : Prop :=
  ∀ s t : State, step s = .next t →
    (t.key = s.key ∨ HostDoes s .reset ∨ (s.flag .busy = false ∧ HostDoes s (.write 0x00 t.key))) ∧
    (t.iv = s.iv ∨ HostDoes s .reset ∨ (s.flag .busy = false ∧ HostDoes s (.write 0x01 t.iv))) ∧
    (t.din = s.din ∨ HostDoes s .reset ∨ (s.flag .busy = false ∧ HostDoes s (.write 0x02 t.din))) ∧
    (t.dout = s.dout ∨ HostDoes s .reset ∨ Performs s .enc ∨ Performs s .dec ∨
      (∃ n, Performs s (.cfbEnc n)) ∨ ∃ n, Performs s (.cfbDec n)) ∧
    (∀ i : Fin 16, t.roundKey i = s.roundKey i ∨ HostDoes s .reset ∨ Performs s .keygen ∨ Performs s .cfbInit ∨
      (s.flag .busy = false ∧ ∃ a v, HostDoes s (.write a v) ∧ a.toNat = 16 + i.val)) ∧
    (t.pend = s.pend ∨ HostDoes s .reset ∨ (s.flag .busy = false ∧ ∃ v, HostDoes s (.write 0x05 v)))

/-- 10_state.md R40, R43, 60_exceptions.md R202: a register whose valid flag is 0 never influences STATUS, the
schedule or a valid register: two states that agree on the valid registers step to two such states. The schedule and
the free values are the model's fields (log entries 1, 3 and 4). -/
def Obligations.UnwrittenRegistersDoNotLeak : Prop :=
  ∀ s t s' : State, AgreeOnValid s t → step s = .next s' → ∃ t', step t = .next t' ∧ AgreeOnValid s' t'

/-! ### The datapath -/

/-- 40_tables.md, the invariants the source requires of its tables, with the spec's own check of the S-box rows and of
the bijections, which it marks as derived. -/
def Obligations.TablesAreWellFormed : Prop :=
  (tableIP.entries.length = 64 ∧ tableIPInv.entries.length = 64 ∧ tablePC1.entries.length = 56 ∧
    tablePC2.entries.length = 48 ∧ tableE.entries.length = 48 ∧ tableP.entries.length = 32 ∧ shifts.length = 16) ∧
  ((∀ j ∈ tableIP.entries, j < 64) ∧ (∀ j ∈ tableIPInv.entries, j < 64) ∧ (∀ j ∈ tablePC1.entries, j < 64) ∧
    (∀ j ∈ tablePC2.entries, j < 56) ∧ (∀ j ∈ tableE.entries, j < 32) ∧ ∀ j ∈ tableP.entries, j < 32) ∧
  (∀ b ∈ [sbox1, sbox2, sbox3, sbox4, sbox5, sbox6, sbox7, sbox8],
    b.rows.length = 4 ∧ ∀ r ∈ b.rows, r.Perm (List.range 16)) ∧
  (tableIP.entries.Nodup ∧ tableIPInv.entries.Nodup ∧ tableP.entries.Nodup ∧ tablePC1.entries.Nodup ∧
    tablePC2.entries.Nodup ∧ (∀ i : Fin 64, tableIPInv.entries.getD (tableIP.entries.getD i 0) 0 = i.val) ∧
    ∀ j : Fin 32, j.val ∈ tableE.entries)

/-- 40_tables.md R102: IP_INV is the inverse of IP, as tables and as transforms of a block. -/
def Obligations.IpInvUndoesIp : Prop :=
  tableIPInv.entries.length = 64 ∧
  (∀ i : Fin 64, tableIPInv.entries.getD (tableIP.entries.getD i 0) 0 = i.val) ∧
  ∀ v : Block, apply tableIPInv (apply tableIP v) = v

/-- 41_primitives.md R121: the rotation in sequence form, in integer form, and at its corners. -/
def Obligations.Rotl28IsCyclicLeftRotation : Prop :=
  (∀ (x : HalfKey) (s i : Nat), s = 1 ∨ s = 2 → i < 28 → (rotl28 x s).getMsbD i = x.getMsbD ((i + s) % 28)) ∧
  (∀ (x : HalfKey) (s : Nat), s = 1 ∨ s = 2 → rotl28 x s = (x <<< s) ||| (x >>> (28 - s))) ∧
  (∀ s : Nat, s = 1 ∨ s = 2 → rotl28 0 s = 0 ∧ rotl28 0xFFFFFFF s = 0xFFFFFFF) ∧
  rotl28 0xF0CCAAF 1 = 0xE19955F ∧ rotl28 0x8000000 1 = 0x0000001

/-- 41_primitives.md R123: round key `i + 1` is PC-2 of the halves of the effective key rotated by all the amounts up
to that round. That after round 16 the halves are back where they began is a clause of section 2 that the spec marks
as derived. -/
def Obligations.RoundKeysComeFromCumulativeRotation : Prop :=
  (∀ (key : Block) (i : Fin 16),
    (keySchedule key)[i] = apply tablePC2 (joinKey
      ((shifts.take (i.val + 1)).foldl rotl28 (seqSlice (apply tablePC1 key) 0 28))
      ((shifts.take (i.val + 1)).foldl rotl28 (seqSlice (apply tablePC1 key) 28 28)))) ∧
  ∀ x : HalfKey, shifts.foldl rotl28 x = x

/-- 41_primitives.md section 2: the parity bits do not affect the round keys ("So KEY and `KEY ⊕ 0x0101010101010101`
give identical round keys", which the spec marks as derived), and the weak keys of R125 give the round keys it lists.
-/
def Obligations.ParityBitsDoNotAffectRoundKeys : Prop :=
  (∀ key key' : Block, (∀ i, i < 64 → i % 8 ≠ 7 → key.getMsbD i = key'.getMsbD i) →
    keySchedule key = keySchedule key') ∧
  keySchedule 0x0000000000000000 = Vector.replicate 16 0 ∧
  keySchedule 0x0101010101010101 = Vector.replicate 16 0 ∧
  keySchedule 0xFFFFFFFFFFFFFFFF = Vector.replicate 16 0xFFFFFFFFFFFF ∧
  keySchedule 0xFEFEFEFEFEFEFEFE = Vector.replicate 16 0xFFFFFFFFFFFF

/-- 41_primitives.md section 3: F at its corners, and its complementation, which the spec marks as derived. -/
def Obligations.RoundFunctionCorners : Prop :=
  (∀ (r : HalfBlock) (k : RoundKey), roundF (~~~r) (~~~k) = roundF r k) ∧
  roundF 0x00000000 0x000000000000 = 0xD8D8DBBC ∧ roundF 0xFFFFFFFF 0x000000000000 = 0x38DBF9CB ∧
  roundF 0x00000000 0xFFFFFFFFFFFF = 0x38DBF9CB ∧ roundF 0xFFFFFFFF 0xFFFFFFFFFFFF = 0xD8D8DBBC

/-- 41_primitives.md R129, R123, R131: the known-answer vector. -/
def Obligations.KnownAnswerVector : Prop :=
  transform 0x0123456789ABCDEF (keySchedule 0x133457799BBCDFF1) .encrypt = 0x85E813540F0AB405 ∧
  transform 0x85E813540F0AB405 (keySchedule 0x133457799BBCDFF1) .decrypt = 0x0123456789ABCDEF

/-- 41_primitives.md R129, section 4: Encrypt takes the round keys in ascending order and Decrypt in descending order;
so Decrypt is Encrypt with the round keys reversed, which the spec marks as derived. -/
def Obligations.DecryptIsEncryptWithReversedKeys : Prop :=
  (∀ (b : Block) (rk : RoundKeys), transform b rk .decrypt = transform b rk.reverse .encrypt) ∧
  (∀ (rk : RoundKeys) (i : Nat), i < 16 →
    (keyOrder rk .encrypt)[i]? = rk[i]? ∧ (keyOrder rk .decrypt)[i]? = rk[15 - i]?)

/-- 41_primitives.md section 6 (a), which the spec marks as derived: decryption undoes encryption for every sixteen
round keys. -/
def Obligations.DecryptUndoesEncrypt : Prop :=
  ∀ (b : Block) (rk : RoundKeys), transform (transform b rk .encrypt) rk .decrypt = b

/-- 41_primitives.md section 6 (b), which the spec marks as derived: complementing the block and the key complements
the result. -/
def Obligations.ComplementationProperty : Prop :=
  ∀ b key : Block, transform (~~~b) (keySchedule (~~~key)) .encrypt = ~~~(transform b (keySchedule key) .encrypt)

/-- 41_primitives.md section 6 (c), which the spec marks as derived: with sixteen equal round keys the two directions
coincide and encryption is its own inverse. -/
def Obligations.EqualRoundKeysMakeAnInvolution : Prop :=
  ∀ (b : Block) (k : RoundKey),
    transform b (Vector.replicate 16 k) .encrypt = transform b (Vector.replicate 16 k) .decrypt ∧
    transform (transform b (Vector.replicate 16 k) .encrypt) (Vector.replicate 16 k) .encrypt = b

/-- 41_primitives.md R132: padding in sequence form and in integer form, the full count, and the example. -/
def Obligations.PadKeepsTheFirstBits : Prop :=
  (∀ (v : Block) (n i : Nat), 1 ≤ n → n ≤ 64 → i < 64 →
    (pad v n).getMsbD i = if i < n then v.getMsbD i else false) ∧
  (∀ (v : Block) (n : Nat), 1 ≤ n → n ≤ 64 →
    pad v n = v &&& (BitVec.ofNat 64 (2 ^ n - 1) <<< (64 - n))) ∧
  (∀ v : Block, pad v 64 = v) ∧ pad 0xF123456789ABCDEF 4 = 0xF000000000000000

/-! ### Messages and host sequences -/

/-- 43_cfb_message.md section 3, which the spec marks as derived: decrypting an encrypted message gives the message
and its zero padding. -/
def Obligations.CfbRoundTrip : Prop :=
  ∀ (iv key : Block) (m : List Bool),
    cfbDecrypt iv (cfbEncrypt iv m key) key =
      m ++ List.replicate (64 * segCount m.length - m.length) false

/-- 43_cfb_message.md R182, and section 3, which the spec marks as derived: the ciphertext has 64·ceil(n/64) bits; its
first n bits are the message under the keystream, and the rest is keystream. -/
def Obligations.CiphertextIsMessageUnderKeystream : Prop :=
  ∀ (iv key : Block) (m : List Bool),
    let o := (keystreamChain (keySchedule key) iv (segments m)).flatMap blockBits
    (cfbEncrypt iv m key).length = 64 * segCount m.length ∧
    (cfbEncrypt iv m key).take m.length = List.zipWith xor m (o.take m.length) ∧
    (cfbEncrypt iv m key).drop m.length = o.drop m.length

/-- 43_cfb_message.md section 3, which the spec marks as derived: a corrupted ciphertext segment `j` gives wrong
plaintext only in segments `j`, in exactly the corrupted bits, and `j + 1`. -/
def Obligations.CfbIsSelfSynchronising : Prop :=
  ∀ (rk : RoundKeys) (sr : Block) (cs : List Block) (j : Nat) (c' : Block), j < cs.length →
    (decryptChain rk sr (cs.set j c')).length = cs.length ∧
    (∀ k, k ≠ j → k ≠ j + 1 → (decryptChain rk sr (cs.set j c')).getD k 0 = (decryptChain rk sr cs).getD k 0) ∧
    (decryptChain rk sr (cs.set j c')).getD j 0 ^^^ (decryptChain rk sr cs).getD j 0 = cs.getD j 0 ^^^ c'

/-- 43_cfb_message.md section 3, which the spec marks as derived: after a CFB_ENC, SR is the ciphertext block in DOUT;
the CFB_DEC of that block from the SR before it gives the padded plaintext back and leaves the same SR. -/
def Obligations.CfbDecUndoesCfbEnc : Prop :=
  ∀ (s t : State) (n : Nat), s.flag .dv = true → s.flag .srv = true → s.allRkv = true →
    exec (.cfbEnc n) s = .next t →
    t.sr = t.dout ∧
    ∃ u, exec (.cfbDec 64) { s with din := t.dout } = .next u ∧ u.dout = pad s.din n ∧ u.sr = t.dout

/-- 42_commands.md R153, R154, 95_test_vectors.md Q1: DEC of the block that ENC produced gives DIN back, for whatever
round keys RK holds. -/
def Obligations.DecUndoesEnc : Prop :=
  ∀ s t : State, s.flag .dv = true → s.allRkv = true → exec .enc s = .next t →
    ∃ u, exec .dec { t with din := t.dout } = .next u ∧ u.dout = s.din ∧ u.rk = s.rk

/-- 30_encoding.md R90, 70_reset_and_hazards.md R242: a POLL ends: after at most the host turns still allowed and two
more steps, BUSY = 0, the POLL has left the queue, and the Host has read that STATUS. The bound in host turns and the
record of reads are the model's choice (log entries 4 and 7). -/
def Obligations.PollTerminates : Prop :=
  ∀ (s : State) (rest : List HostOp), s.hostOps = .poll :: rest →
    ∃ k t, k ≤ s.hostTurns + 2 ∧ core.run k s = .next t ∧ t.flag .busy = false ∧ t.hostOps = rest ∧
      t.hostReads = s.hostReads ++ [(0x06, t.status.setWidth 64)]

/-- 43_cfb_message.md R184: the host sequence for the segments of a message, with any bits after the message's end,
reads out exactly the blocks of `cfb_encrypt`, for every schedule of the Engine steps. The spec marks it as derived;
the schedule, the queue of host operations and the record of reads are the model's (log entries 4 and 7). -/
def Obligations.HostSequenceComputesCfbEncrypt : Prop :=
  ∀ (s : State) (iv key : Block) (m : List Bool) (segs : List (Block × Nat)),
    s.flag .busy = false → segs.map Prod.snd = segLens m.length →
    segs.map (fun d => pad d.1 d.2) = segments m → s.hostOps = cfbEncryptOps key iv segs →
    ∃ k t, core.run k s = .next t ∧ t.hostOps = [] ∧ t.flag .busy = false ∧ t.err = 0 ∧
      (readsOf (addrOf .dout) s.hostReads.length t).flatMap blockBits = cfbEncrypt iv m key

/-- 43_cfb_message.md R184: the same for `cfb_decrypt` with CFB_DEC and the ciphertext segments (log entries 4 and 7).
-/
def Obligations.HostSequenceComputesCfbDecrypt : Prop :=
  ∀ (s : State) (iv key : Block) (c : List Bool) (segs : List (Block × Nat)),
    s.flag .busy = false → segs.map Prod.snd = segLens c.length →
    segs.map (fun d => pad d.1 d.2) = segments c → s.hostOps = cfbDecryptOps key iv segs →
    ∃ k t, core.run k s = .next t ∧ t.hostOps = [] ∧ t.flag .busy = false ∧ t.err = 0 ∧
      (readsOf (addrOf .dout) s.hostReads.length t).flatMap blockBits = cfbDecrypt iv c key

/-- 70_reset_and_hazards.md R246: writing a saved SR to IV, with the message's KEY, and issuing CFB_INIT restores the
chain: SR is the saved value and the round keys are those of KEY. The spec marks it as derived; the queue of host
operations and the schedule are the model's (log entries 4 and 7). -/
def Obligations.CfbInitRestoresASavedChain : Prop :=
  ∀ (s : State) (key saved : Block), s.flag .busy = false →
    s.hostOps = cfbStartOps key saved →
    ∃ k t, core.run k s = .next t ∧ t.hostOps = [] ∧ t.flag .busy = false ∧ t.err = 0 ∧
      t.sr = saved ∧ t.rk = keySchedule key ∧ t.flag .srv = true ∧ t.allRkv = true ∧
      t.din = s.din ∧ t.dout = s.dout
end

