-- ==== Sys2Proof/Laws/Datapath.lean ====
section
/-! SUPPORT. What each primitive of the datapath does, bit by bit in sequence numbering. -/

namespace Sys2Proof.Machine

/-- `apply(T, v)⟨i⟩ = v⟨T[i]⟩` (41_primitives.md R120). -/
theorem getMsbD_apply {w n : Nat} (t : IndexTable w n) (v : BitVec w) (i : Nat) (h : i < n) :
    (apply t v).getMsbD i = v.getMsbD (t.entries.getD i 0) := by
  have hl : i < t.entries.length := by rw [t.length_eq]; exact h
  simp [apply, hl]

/-- The sequence bits of a slice (00_scope.md R10). -/
theorem getMsbD_seqSlice {w : Nat} (v : BitVec w) (i len k : Nat) (h : i + len ≤ w) (hk : k < len) :
    (seqSlice v i len).getMsbD k = v.getMsbD (i + k) := by
  simp only [seqSlice, BitVec.getMsbD, BitVec.getLsbD_extractLsb', hk, decide_true, Bool.true_and,
    show len - 1 - k < len by omega, show i + k < w by omega]
  congr 1
  omega

/-- The sequence bits of `L ‖ R` (00_scope.md R10). -/
theorem getMsbD_joinBlock (l r : HalfBlock) (i : Nat) (hi : i < 64) :
    (joinBlock l r).getMsbD i = if i < 32 then l.getMsbD i else r.getMsbD (i - 32) := by
  have h := BitVec.getMsbD_append (x := l) (y := r) (i := i)
  rw [show (joinBlock l r).getMsbD i = _ from h]
  split <;> split <;> first | rfl | omega

/-- The sequence bits of `C ‖ D` (00_scope.md R10). -/
theorem getMsbD_joinKey (c d : HalfKey) (i : Nat) (hi : i < 56) :
    (joinKey c d).getMsbD i = if i < 28 then c.getMsbD i else d.getMsbD (i - 28) := by
  have h := BitVec.getMsbD_append (x := c) (y := d) (i := i)
  rw [show (joinKey c d).getMsbD i = _ from h]
  split <;> split <;> first | rfl | omega

/-- The left half of `L ‖ R`. -/
theorem seqSlice_joinBlock_left (l r : HalfBlock) : seqSlice (joinBlock l r) 0 32 = l := by
  apply BitVec.eq_of_getMsbD_eq
  intro i hi
  rw [getMsbD_seqSlice _ _ _ _ (by omega) hi, getMsbD_joinBlock _ _ _ (by omega), if_pos (by omega), Nat.zero_add]

/-- The right half of `L ‖ R`. -/
theorem seqSlice_joinBlock_right (l r : HalfBlock) : seqSlice (joinBlock l r) 32 32 = r := by
  apply BitVec.eq_of_getMsbD_eq
  intro i hi
  rw [getMsbD_seqSlice _ _ _ _ (by omega) hi, getMsbD_joinBlock _ _ _ (by omega), if_neg (by omega),
    Nat.add_sub_cancel_left]

/-- A block is its two halves. -/
theorem joinBlock_seqSlice (b : Block) : joinBlock (seqSlice b 0 32) (seqSlice b 32 32) = b := by
  apply BitVec.eq_of_getMsbD_eq
  intro i hi
  rw [getMsbD_joinBlock _ _ _ hi]
  split
  · rw [getMsbD_seqSlice _ _ _ _ (by omega) (by omega), Nat.zero_add]
  · rw [getMsbD_seqSlice _ _ _ _ (by omega) (by omega)]
    congr 1
    omega

/-- `rotl28(x, s)⟨i⟩ = x⟨(i + s) mod 28⟩` (41_primitives.md R121). -/
theorem getMsbD_rotl28 (x : HalfKey) (s i : Nat) (hi : i < 28) :
    (rotl28 x s).getMsbD i = x.getMsbD ((i + s) % 28) := by
  rw [rotl28, BitVec.getMsbD_rotateLeft]
  simp [hi, Nat.add_comm]

/-- `pad` keeps the first `n` sequence bits (41_primitives.md R132). -/
theorem getMsbD_pad (v : Block) (n i : Nat) (hi : i < 64) :
    (pad v n).getMsbD i = (decide (i < n) && v.getMsbD i) := by
  have ho : ∀ k, k < 64 → (BitVec.allOnes 64).getLsbD k = true := fun k hk => by
    rw [BitVec.getLsbD_allOnes, decide_eq_true hk]
  rw [pad, BitVec.getMsbD_and, BitVec.getMsbD, BitVec.getMsbD, BitVec.getLsbD_shiftLeft]
  by_cases h : i < n
  · rw [ho _ (by omega)]
    simp [hi, h, show ¬(63 - i < 64 - n) by omega, show 63 - i < 64 by omega]
  · simp [h, show 63 - i < 64 - n by omega]

theorem getMsbD_blockOf (f : Nat → Bool) (i : Nat) (hi : i < 64) : (blockOf f).getMsbD i = f i := by
  simp [blockOf, hi]

theorem length_blockBits (b : Block) : (blockBits b).length = 64 := by simp [blockBits]

theorem keyScheduleList_length (key : Block) : (keyScheduleList key).length = 16 := keyRounds_length shifts _ _

theorem toList_keySchedule (key : Block) : (keySchedule key).toList = keyScheduleList key := by
  simp [keySchedule, Vector.toList]

end Sys2Proof.Machine
end

