-- ==== Sys2Proof/Laws/Decode.lean ====
section
/-! SUPPORT. The fields of a command word put together from its fields, and the valid-bit count. -/

namespace Sys2Proof

/-- The bits of a word put together from its upper 28 bits and its opcode. -/
theorem getLsbD_upper_op (rest : BitVec 28) (op : BitVec 4) (k : Nat) :
    (rest ++ op : CmdWord).getLsbD k = if k < 4 then op.getLsbD k else rest.getLsbD (k - 4) := by
  have := BitVec.getLsbD_append (x := rest) (y := op) (i := k)
  simpa using this

/-- The bits of a word put together from its fields. -/
theorem getLsbD_cmdWord (op : BitVec 4) (nb : BitVec 6) (k : Nat) :
    (cmdWord op nb).getLsbD k =
      if k < 4 then op.getLsbD k else if k - 4 < 6 then nb.getLsbD (k - 4) else false := by
  have h := BitVec.getLsbD_append (x := 0#22) (y := nb) (i := k - 4)
  rw [cmdWord, getLsbD_upper_op]
  by_cases hk : k < 4
  · simp [hk]
  · rw [if_neg hk, if_neg hk]
    simpa using h

theorem opField_cmdWord (op : BitVec 4) (nb : BitVec 6) : opField (cmdWord op nb) = op := by
  apply BitVec.eq_of_getLsbD_eq
  intro i hi
  simp [opField, getLsbD_cmdWord, hi]

theorem nbField_cmdWord (op : BitVec 4) (nb : BitVec 6) : nbField (cmdWord op nb) = nb := by
  apply BitVec.eq_of_getLsbD_eq
  intro i hi
  simp [nbField, getLsbD_cmdWord, hi]

theorem resField_cmdWord (op : BitVec 4) (nb : BitVec 6) : resField (cmdWord op nb) = 0 := by
  apply BitVec.eq_of_getLsbD_eq
  intro i hi
  simp [resField, getLsbD_cmdWord, show ¬10 + i < 4 by omega, show ¬10 + i - 4 < 6 by omega]

theorem opField_append (rest : BitVec 28) (op : BitVec 4) : opField (rest ++ op) = op := by
  apply BitVec.eq_of_getLsbD_eq
  intro i hi
  simp only [opField, BitVec.getLsbD_extractLsb', getLsbD_upper_op]
  simp [hi]

theorem upper_append (rest : BitVec 28) (op : BitVec 4) : (rest ++ op : CmdWord).extractLsb' 4 28 = rest := by
  apply BitVec.eq_of_getLsbD_eq
  intro i hi
  simp only [BitVec.getLsbD_extractLsb', getLsbD_upper_op]
  simp [hi]

theorem validBits_range (nb : BitVec 6) : 1 ≤ validBits nb ∧ validBits nb ≤ 64 := by
  revert nb; decide

/-- A count of 1 to 64 is what its NB field stands for (30_encoding.md R82). -/
theorem validBits_nbOfCount (n : Nat) (h : 1 ≤ n ∧ n ≤ 64) : validBits (nbOfCount n) = n := by
  have all : ∀ k : Fin 64, validBits (nbOfCount (k.val + 1)) = k.val + 1 := by decide
  have := all ⟨n - 1, by omega⟩
  rwa [show n - 1 + 1 = n by omega] at this

/-- An NB field is the one its count stands for. -/
theorem nbOfCount_validBits (nb : BitVec 6) : nbOfCount (validBits nb) = nb := by
  revert nb; decide

end Sys2Proof
end

