-- ==== Sys2Proof/Laws/Flags.lean ====
section
/-! SUPPORT. What every write of STATUS does to every field of it. -/

namespace Sys2Proof.Machine

theorem Flag.bit_lt (f : Flag) : f.bit < 32 := by
  cases f <;> simp [Flag.bit]
  omega

theorem Flag.bit_inj {f g : Flag} (h : f.bit = g.bit) : f = g := by
  cases f <;> cases g <;> simp_all [Flag.bit] <;> omega

theorem Flag.bit_eq_iff (f g : Flag) : f.bit = g.bit ↔ f = g := ⟨Flag.bit_inj, fun h => h ▸ rfl⟩

/-- A flag's bit lies outside ERR and outside the reserved bits (R29). -/
theorem Flag.bit_range (f : Flag) : f.bit ≤ 6 ∨ 16 ≤ f.bit := by
  cases f <;> simp [Flag.bit]

@[simp] theorem getFlag_setFlag (w : StatusWord) (f g : Flag) :
    getFlag (setFlag w f) g = (decide (g = f) || getFlag w g) := by
  have := f.bit_lt
  simp only [getFlag, setFlag, BitVec.getLsbD_or, BitVec.getLsbD_twoPow, ← Flag.bit_eq_iff]
  simp [this, Bool.or_comm, eq_comm]

@[simp] theorem getFlag_clearFlag (w : StatusWord) (f g : Flag) :
    getFlag (clearFlag w f) g = (!decide (g = f) && getFlag w g) := by
  have hf := f.bit_lt
  have hg := g.bit_lt
  simp only [getFlag, clearFlag, BitVec.getLsbD_and, BitVec.getLsbD_not, BitVec.getLsbD_twoPow, ← Flag.bit_eq_iff]
  simp [hf, hg, Bool.and_comm, eq_comm]

/-- The bits of a mask that a flag's bit meets, by its number. -/
theorem mask_putErr (k : Nat) (h : k < 32) : (0xFFFFF0FF#32).getLsbD k = decide (k < 8 ∨ 12 ≤ k) := by
  revert k; decide

theorem mask_rkv (k : Nat) (h : k < 32) : (0xFFFF0000#32).getLsbD k = decide (16 ≤ k) := by
  revert k; decide

theorem mask_reserved (k : Nat) (h : k < 32) :
    (0x0000F080#32).getLsbD k = decide (k = 7 ∨ 12 ≤ k ∧ k < 16) := by
  revert k; decide

theorem getLsbD_putErr (w : StatusWord) (c : ErrCode) (k : Nat) (h : k < 32) :
    (putErr w c).getLsbD k = if 8 ≤ k ∧ k < 12 then c.code.getLsbD (k - 8) else w.getLsbD k := by
  simp only [putErr, BitVec.getLsbD_or, BitVec.getLsbD_and, mask_putErr k h, BitVec.getLsbD_shiftLeft,
    BitVec.getLsbD_setWidth]
  by_cases h8 : k < 8
  · simp [h, h8, show ¬8 ≤ k by omega]
  · by_cases h12 : k < 12
    · simp [h, h8, h12, show 8 ≤ k by omega, show ¬12 ≤ k by omega, show k - 8 < 32 by omega]
    · have : c.code.getLsbD (k - 8) = false := BitVec.getLsbD_of_ge _ _ (by omega)
      simp [h8, h12, show 12 ≤ k by omega, this]

@[simp] theorem getFlag_putErr (w : StatusWord) (c : ErrCode) (f : Flag) :
    getFlag (putErr w c) f = getFlag w f := by
  have h := f.bit_range
  rw [getFlag, getLsbD_putErr w c _ f.bit_lt, if_neg (by omega), getFlag]

@[simp] theorem getFlag_setAllRkv (w : StatusWord) (f : Flag) :
    getFlag (setAllRkv w) f = (decide (16 ≤ f.bit) || getFlag w f) := by
  simp [getFlag, setAllRkv, mask_rkv _ f.bit_lt, Bool.or_comm]

/-! ### ERR -/

theorem errField_getLsbD (w : StatusWord) (k : Nat) (h : k < 4) :
    (errField w).getLsbD k = w.getLsbD (8 + k) := by
  simp [errField, h]

theorem errField_congr {w w' : StatusWord} (h : ∀ k, 8 ≤ k → k < 12 → w.getLsbD k = w'.getLsbD k) :
    errField w = errField w' := by
  apply BitVec.eq_of_getLsbD_eq
  intro i hi
  rw [errField_getLsbD w i hi, errField_getLsbD w' i hi, h _ (by omega) (by omega)]

@[simp] theorem errField_putErr (w : StatusWord) (c : ErrCode) : errField (putErr w c) = c.code := by
  apply BitVec.eq_of_getLsbD_eq
  intro i hi
  rw [errField_getLsbD _ i hi, getLsbD_putErr _ _ _ (by omega), if_pos (by omega), show 8 + i - 8 = i by omega]

@[simp] theorem errField_setFlag (w : StatusWord) (f : Flag) : errField (setFlag w f) = errField w := by
  have hr := f.bit_range
  apply errField_congr
  intro k h8 h12
  simp only [setFlag, BitVec.getLsbD_or, BitVec.getLsbD_twoPow]
  simp [show ¬f.bit = k by omega]

@[simp] theorem errField_clearFlag (w : StatusWord) (f : Flag) : errField (clearFlag w f) = errField w := by
  have hr := f.bit_range
  apply errField_congr
  intro k h8 h12
  simp only [clearFlag, BitVec.getLsbD_and, BitVec.getLsbD_not, BitVec.getLsbD_twoPow]
  simp [show ¬f.bit = k by omega, show k < 32 by omega]

@[simp] theorem errField_setAllRkv (w : StatusWord) : errField (setAllRkv w) = errField w := by
  apply errField_congr
  intro k h8 h12
  simp [setAllRkv, mask_rkv k (by omega), show ¬16 ≤ k by omega]

/-! ### The reserved bits -/

theorem reservedField_congr {w w' : StatusWord}
    (h : ∀ k, k = 7 ∨ 12 ≤ k ∧ k < 16 → w.getLsbD k = w'.getLsbD k) : reservedField w = reservedField w' := by
  apply BitVec.eq_of_getLsbD_eq
  intro k hk
  simp only [reservedField, BitVec.getLsbD_and, mask_reserved k hk]
  by_cases hr : k = 7 ∨ 12 ≤ k ∧ k < 16
  · rw [h k hr]
  · simp [hr]

@[simp] theorem reservedField_putErr (w : StatusWord) (c : ErrCode) :
    reservedField (putErr w c) = reservedField w := by
  apply reservedField_congr
  intro k hk
  rw [getLsbD_putErr _ _ _ (by omega), if_neg (by omega)]

theorem Flag.bit_not_reserved (f : Flag) (k : Nat) (hk : k = 7 ∨ 12 ≤ k ∧ k < 16) : f.bit ≠ k := by
  have := f.bit_range
  omega

@[simp] theorem reservedField_setFlag (w : StatusWord) (f : Flag) :
    reservedField (setFlag w f) = reservedField w := by
  apply reservedField_congr
  intro k hk
  simp only [setFlag, BitVec.getLsbD_or, BitVec.getLsbD_twoPow]
  simp [f.bit_not_reserved k hk]

@[simp] theorem reservedField_clearFlag (w : StatusWord) (f : Flag) :
    reservedField (clearFlag w f) = reservedField w := by
  apply reservedField_congr
  intro k hk
  simp only [clearFlag, BitVec.getLsbD_and, BitVec.getLsbD_not, BitVec.getLsbD_twoPow]
  simp [f.bit_not_reserved k hk, show k < 32 by omega]

@[simp] theorem reservedField_setAllRkv (w : StatusWord) :
    reservedField (setAllRkv w) = reservedField w := by
  apply reservedField_congr
  intro k hk
  simp [setAllRkv, mask_rkv k (by omega), show ¬16 ≤ k by omega]

/-! ### RKV as a whole -/

/-- RKV is all ones exactly when every RKV flag is set (R41). -/
theorem rkvField_eq_ones (w : StatusWord) :
    (rkvField w == 0xFFFF#16) = true ↔ ∀ i, getFlag w (.rkv i) = true := by
  rw [beq_iff_eq]
  constructor
  · intro h i
    have hb : (rkvField w).getLsbD i.val = w.getLsbD (16 + i.val) := by simp [rkvField]
    have ho : ∀ k : Fin 16, (0xFFFF#16).getLsbD k.val = true := by decide
    rw [getFlag, Flag.bit, ← hb, h, ho]
  · intro h
    apply BitVec.eq_of_getLsbD_eq
    intro k hk
    have ho : ∀ k : Fin 16, (0xFFFF#16).getLsbD k.val = true := by decide
    have hb : (rkvField w).getLsbD k = w.getLsbD (16 + k) := by simp [rkvField, hk]
    rw [hb, ho ⟨k, hk⟩]
    exact h ⟨k, hk⟩

/-- Two status words are equal when their fields are. -/
theorem status_ext {w w' : StatusWord} (hf : ∀ f, getFlag w f = getFlag w' f)
    (he : errField w = errField w') (hr : reservedField w = reservedField w') : w = w' := by
  have key : ∀ k, k < 32 → w.getLsbD k = w'.getLsbD k := by
    intro k hk
    by_cases h16 : 16 ≤ k
    · have := hf (.rkv ⟨k - 16, by omega⟩)
      simp only [getFlag, Flag.bit] at this
      rwa [show 16 + (k - 16) = k by omega] at this
    · by_cases he8 : 8 ≤ k ∧ k < 12
      · have h1 := errField_getLsbD w (k - 8) (by omega)
        have h2 := errField_getLsbD w' (k - 8) (by omega)
        rw [show 8 + (k - 8) = k by omega] at h1 h2
        rw [← h1, ← h2, he]
      · by_cases hk7 : k = 7 ∨ 12 ≤ k ∧ k < 16
        · have := congrArg (BitVec.getLsbD · k) hr
          simpa [reservedField, mask_reserved k hk, hk7] using this
        · have h0 := hf .busy; have h1 := hf .kv; have h2 := hf .ivv; have h3 := hf .dv
          have h4 := hf .srv; have h5 := hf .dov; have h6 := hf .ovr
          simp only [getFlag, Flag.bit] at h0 h1 h2 h3 h4 h5 h6
          have : k = 0 ∨ k = 1 ∨ k = 2 ∨ k = 3 ∨ k = 4 ∨ k = 5 ∨ k = 6 := by omega
          rcases this with rfl | rfl | rfl | rfl | rfl | rfl | rfl <;> assumption
  exact BitVec.eq_of_getLsbD_eq key

end Sys2Proof.Machine
end

