-- ==== Sys2Proof/Laws/State.lean ====
section
/-! SUPPORT. Each field of the state after each named update, so that no later proof unfolds a record update. -/

namespace Sys2Proof.Machine

/-! ### complete -/

@[simp] theorem complete_key (c : ErrCode) (s : State) : (complete c s).key = s.key := rfl
@[simp] theorem complete_iv (c : ErrCode) (s : State) : (complete c s).iv = s.iv := rfl
@[simp] theorem complete_din (c : ErrCode) (s : State) : (complete c s).din = s.din := rfl
@[simp] theorem complete_dout (c : ErrCode) (s : State) : (complete c s).dout = s.dout := rfl
@[simp] theorem complete_sr (c : ErrCode) (s : State) : (complete c s).sr = s.sr := rfl
@[simp] theorem complete_rk (c : ErrCode) (s : State) : (complete c s).rk = s.rk := rfl
@[simp] theorem complete_status (c : ErrCode) (s : State) :
    (complete c s).status = clearFlag (putErr s.status c) .busy := rfl
@[simp] theorem complete_pend (c : ErrCode) (s : State) : (complete c s).pend = s.pend := rfl
@[simp] theorem complete_hostOps (c : ErrCode) (s : State) : (complete c s).hostOps = s.hostOps := rfl
@[simp] theorem complete_hostReads (c : ErrCode) (s : State) : (complete c s).hostReads = s.hostReads := rfl
@[simp] theorem complete_hostTurns (c : ErrCode) (s : State) : (complete c s).hostTurns = s.hostTurns := rfl
@[simp] theorem complete_draws (c : ErrCode) (s : State) : (complete c s).draws = s.draws := rfl

/-! ### raiseError -/

@[simp] theorem raiseError_key (c : ErrCode) (s : State) : (raiseError c s).key = s.key := rfl
@[simp] theorem raiseError_iv (c : ErrCode) (s : State) : (raiseError c s).iv = s.iv := rfl
@[simp] theorem raiseError_din (c : ErrCode) (s : State) : (raiseError c s).din = s.din := rfl
@[simp] theorem raiseError_dout (c : ErrCode) (s : State) : (raiseError c s).dout = s.dout := rfl
@[simp] theorem raiseError_sr (c : ErrCode) (s : State) : (raiseError c s).sr = s.sr := rfl
@[simp] theorem raiseError_rk (c : ErrCode) (s : State) : (raiseError c s).rk = s.rk := rfl
@[simp] theorem raiseError_status (c : ErrCode) (s : State) :
    (raiseError c s).status = clearFlag (putErr s.status c) .busy := rfl
@[simp] theorem raiseError_pend (c : ErrCode) (s : State) : (raiseError c s).pend = s.pend := rfl
@[simp] theorem raiseError_hostOps (c : ErrCode) (s : State) : (raiseError c s).hostOps = s.hostOps := rfl
@[simp] theorem raiseError_hostReads (c : ErrCode) (s : State) : (raiseError c s).hostReads = s.hostReads := rfl
@[simp] theorem raiseError_hostTurns (c : ErrCode) (s : State) : (raiseError c s).hostTurns = s.hostTurns := rfl
@[simp] theorem raiseError_draws (c : ErrCode) (s : State) : (raiseError c s).draws = s.draws := rfl

/-! ### clearOvr -/

@[simp] theorem clearOvr_key (s : State) : (clearOvr s).key = s.key := rfl
@[simp] theorem clearOvr_iv (s : State) : (clearOvr s).iv = s.iv := rfl
@[simp] theorem clearOvr_din (s : State) : (clearOvr s).din = s.din := rfl
@[simp] theorem clearOvr_dout (s : State) : (clearOvr s).dout = s.dout := rfl
@[simp] theorem clearOvr_sr (s : State) : (clearOvr s).sr = s.sr := rfl
@[simp] theorem clearOvr_rk (s : State) : (clearOvr s).rk = s.rk := rfl
@[simp] theorem clearOvr_status (s : State) : (clearOvr s).status = clearFlag s.status .ovr := rfl
@[simp] theorem clearOvr_pend (s : State) : (clearOvr s).pend = s.pend := rfl
@[simp] theorem clearOvr_hostOps (s : State) : (clearOvr s).hostOps = s.hostOps := rfl
@[simp] theorem clearOvr_hostReads (s : State) : (clearOvr s).hostReads = s.hostReads := rfl
@[simp] theorem clearOvr_hostTurns (s : State) : (clearOvr s).hostTurns = s.hostTurns := rfl
@[simp] theorem clearOvr_draws (s : State) : (clearOvr s).draws = s.draws := rfl

/-! ### loadRoundKeys -/

@[simp] theorem loadRoundKeys_key (s : State) : (loadRoundKeys s).key = s.key := rfl
@[simp] theorem loadRoundKeys_iv (s : State) : (loadRoundKeys s).iv = s.iv := rfl
@[simp] theorem loadRoundKeys_din (s : State) : (loadRoundKeys s).din = s.din := rfl
@[simp] theorem loadRoundKeys_dout (s : State) : (loadRoundKeys s).dout = s.dout := rfl
@[simp] theorem loadRoundKeys_sr (s : State) : (loadRoundKeys s).sr = s.sr := rfl
@[simp] theorem loadRoundKeys_rk (s : State) : (loadRoundKeys s).rk = keySchedule s.key := rfl
@[simp] theorem loadRoundKeys_status (s : State) : (loadRoundKeys s).status = setAllRkv s.status := rfl
@[simp] theorem loadRoundKeys_pend (s : State) : (loadRoundKeys s).pend = s.pend := rfl
@[simp] theorem loadRoundKeys_hostOps (s : State) : (loadRoundKeys s).hostOps = s.hostOps := rfl
@[simp] theorem loadRoundKeys_hostReads (s : State) : (loadRoundKeys s).hostReads = s.hostReads := rfl
@[simp] theorem loadRoundKeys_hostTurns (s : State) : (loadRoundKeys s).hostTurns = s.hostTurns := rfl
@[simp] theorem loadRoundKeys_draws (s : State) : (loadRoundKeys s).draws = s.draws := rfl

/-! ### writeDout -/

@[simp] theorem writeDout_key (v : Block) (s : State) : (writeDout v s).key = s.key := rfl
@[simp] theorem writeDout_iv (v : Block) (s : State) : (writeDout v s).iv = s.iv := rfl
@[simp] theorem writeDout_din (v : Block) (s : State) : (writeDout v s).din = s.din := rfl
@[simp] theorem writeDout_dout (v : Block) (s : State) : (writeDout v s).dout = v := rfl
@[simp] theorem writeDout_sr (v : Block) (s : State) : (writeDout v s).sr = s.sr := rfl
@[simp] theorem writeDout_rk (v : Block) (s : State) : (writeDout v s).rk = s.rk := rfl
@[simp] theorem writeDout_status (v : Block) (s : State) : (writeDout v s).status = setFlag s.status .dov := rfl
@[simp] theorem writeDout_pend (v : Block) (s : State) : (writeDout v s).pend = s.pend := rfl
@[simp] theorem writeDout_hostOps (v : Block) (s : State) : (writeDout v s).hostOps = s.hostOps := rfl
@[simp] theorem writeDout_hostReads (v : Block) (s : State) : (writeDout v s).hostReads = s.hostReads := rfl
@[simp] theorem writeDout_hostTurns (v : Block) (s : State) : (writeDout v s).hostTurns = s.hostTurns := rfl
@[simp] theorem writeDout_draws (v : Block) (s : State) : (writeDout v s).draws = s.draws := rfl

/-! ### seedSr -/

@[simp] theorem seedSr_key (s : State) : (seedSr s).key = s.key := rfl
@[simp] theorem seedSr_iv (s : State) : (seedSr s).iv = s.iv := rfl
@[simp] theorem seedSr_din (s : State) : (seedSr s).din = s.din := rfl
@[simp] theorem seedSr_dout (s : State) : (seedSr s).dout = s.dout := rfl
@[simp] theorem seedSr_sr (s : State) : (seedSr s).sr = s.iv := rfl
@[simp] theorem seedSr_rk (s : State) : (seedSr s).rk = s.rk := rfl
@[simp] theorem seedSr_status (s : State) : (seedSr s).status = setFlag s.status .srv := rfl
@[simp] theorem seedSr_pend (s : State) : (seedSr s).pend = s.pend := rfl
@[simp] theorem seedSr_hostOps (s : State) : (seedSr s).hostOps = s.hostOps := rfl
@[simp] theorem seedSr_hostReads (s : State) : (seedSr s).hostReads = s.hostReads := rfl
@[simp] theorem seedSr_hostTurns (s : State) : (seedSr s).hostTurns = s.hostTurns := rfl
@[simp] theorem seedSr_draws (s : State) : (seedSr s).draws = s.draws := rfl

/-! ### feedSr -/

@[simp] theorem feedSr_key (v : Block) (s : State) : (feedSr v s).key = s.key := rfl
@[simp] theorem feedSr_iv (v : Block) (s : State) : (feedSr v s).iv = s.iv := rfl
@[simp] theorem feedSr_din (v : Block) (s : State) : (feedSr v s).din = s.din := rfl
@[simp] theorem feedSr_dout (v : Block) (s : State) : (feedSr v s).dout = s.dout := rfl
@[simp] theorem feedSr_sr (v : Block) (s : State) : (feedSr v s).sr = v := rfl
@[simp] theorem feedSr_rk (v : Block) (s : State) : (feedSr v s).rk = s.rk := rfl
@[simp] theorem feedSr_status (v : Block) (s : State) : (feedSr v s).status = s.status := rfl
@[simp] theorem feedSr_pend (v : Block) (s : State) : (feedSr v s).pend = s.pend := rfl
@[simp] theorem feedSr_hostOps (v : Block) (s : State) : (feedSr v s).hostOps = s.hostOps := rfl
@[simp] theorem feedSr_hostReads (v : Block) (s : State) : (feedSr v s).hostReads = s.hostReads := rfl
@[simp] theorem feedSr_hostTurns (v : Block) (s : State) : (feedSr v s).hostTurns = s.hostTurns := rfl
@[simp] theorem feedSr_draws (v : Block) (s : State) : (feedSr v s).draws = s.draws := rfl

/-! ### hostRead -/

@[simp] theorem hostRead_key (a : RegAddr) (s : State) : (hostRead a s).key = s.key := rfl
@[simp] theorem hostRead_iv (a : RegAddr) (s : State) : (hostRead a s).iv = s.iv := rfl
@[simp] theorem hostRead_din (a : RegAddr) (s : State) : (hostRead a s).din = s.din := rfl
@[simp] theorem hostRead_dout (a : RegAddr) (s : State) : (hostRead a s).dout = s.dout := rfl
@[simp] theorem hostRead_sr (a : RegAddr) (s : State) : (hostRead a s).sr = s.sr := rfl
@[simp] theorem hostRead_rk (a : RegAddr) (s : State) : (hostRead a s).rk = s.rk := rfl
@[simp] theorem hostRead_status (a : RegAddr) (s : State) : (hostRead a s).status = s.status := rfl
@[simp] theorem hostRead_pend (a : RegAddr) (s : State) : (hostRead a s).pend = s.pend := rfl
@[simp] theorem hostRead_hostOps (a : RegAddr) (s : State) : (hostRead a s).hostOps = s.hostOps := rfl
@[simp] theorem hostRead_hostReads (a : RegAddr) (s : State) :
    (hostRead a s).hostReads = s.hostReads ++ [(a, hostReadValue s a)] := rfl
@[simp] theorem hostRead_hostTurns (a : RegAddr) (s : State) : (hostRead a s).hostTurns = s.hostTurns := rfl
@[simp] theorem hostRead_draws (a : RegAddr) (s : State) :
    (hostRead a s).draws = if underUpdate s (regAt a) then s.draws + 1 else s.draws := rfl

/-! ### accept -/

@[simp] theorem accept_key (v : BusWord) (s : State) : (accept v s).key = s.key := rfl
@[simp] theorem accept_iv (v : BusWord) (s : State) : (accept v s).iv = s.iv := rfl
@[simp] theorem accept_din (v : BusWord) (s : State) : (accept v s).din = s.din := rfl
@[simp] theorem accept_dout (v : BusWord) (s : State) : (accept v s).dout = s.dout := rfl
@[simp] theorem accept_sr (v : BusWord) (s : State) : (accept v s).sr = s.sr := rfl
@[simp] theorem accept_rk (v : BusWord) (s : State) : (accept v s).rk = s.rk := rfl
@[simp] theorem accept_status (v : BusWord) (s : State) : (accept v s).status = setFlag s.status .busy := rfl
@[simp] theorem accept_pend (v : BusWord) (s : State) : (accept v s).pend = v.setWidth 32 := rfl
@[simp] theorem accept_hostOps (v : BusWord) (s : State) : (accept v s).hostOps = s.hostOps := rfl
@[simp] theorem accept_hostReads (v : BusWord) (s : State) : (accept v s).hostReads = s.hostReads := rfl
@[simp] theorem accept_hostTurns (v : BusWord) (s : State) : (accept v s).hostTurns = Config.schedule s.draws := rfl
@[simp] theorem accept_draws (v : BusWord) (s : State) : (accept v s).draws = s.draws + 1 := rfl

/-! ### writeRoundKey -/

@[simp] theorem writeRoundKey_key (i : Fin 16) (v : BusWord) (s : State) : (writeRoundKey i v s).key = s.key := rfl
@[simp] theorem writeRoundKey_iv (i : Fin 16) (v : BusWord) (s : State) : (writeRoundKey i v s).iv = s.iv := rfl
@[simp] theorem writeRoundKey_din (i : Fin 16) (v : BusWord) (s : State) : (writeRoundKey i v s).din = s.din := rfl
@[simp] theorem writeRoundKey_dout (i : Fin 16) (v : BusWord) (s : State) : (writeRoundKey i v s).dout = s.dout := rfl
@[simp] theorem writeRoundKey_sr (i : Fin 16) (v : BusWord) (s : State) : (writeRoundKey i v s).sr = s.sr := rfl
@[simp] theorem writeRoundKey_rk (i : Fin 16) (v : BusWord) (s : State) :
    (writeRoundKey i v s).rk = s.rk.set i (v.setWidth 48) := rfl
@[simp] theorem writeRoundKey_status (i : Fin 16) (v : BusWord) (s : State) :
    (writeRoundKey i v s).status = setFlag s.status (.rkv i) := rfl
@[simp] theorem writeRoundKey_pend (i : Fin 16) (v : BusWord) (s : State) : (writeRoundKey i v s).pend = s.pend := rfl
@[simp] theorem writeRoundKey_hostOps (i : Fin 16) (v : BusWord) (s : State) :
    (writeRoundKey i v s).hostOps = s.hostOps := rfl
@[simp] theorem writeRoundKey_hostReads (i : Fin 16) (v : BusWord) (s : State) :
    (writeRoundKey i v s).hostReads = s.hostReads := rfl
@[simp] theorem writeRoundKey_hostTurns (i : Fin 16) (v : BusWord) (s : State) :
    (writeRoundKey i v s).hostTurns = s.hostTurns := rfl
@[simp] theorem writeRoundKey_draws (i : Fin 16) (v : BusWord) (s : State) :
    (writeRoundKey i v s).draws = s.draws := rfl

/-! ### dropWrite -/

@[simp] theorem dropWrite_key (s : State) : (dropWrite s).key = s.key := rfl
@[simp] theorem dropWrite_iv (s : State) : (dropWrite s).iv = s.iv := rfl
@[simp] theorem dropWrite_din (s : State) : (dropWrite s).din = s.din := rfl
@[simp] theorem dropWrite_dout (s : State) : (dropWrite s).dout = s.dout := rfl
@[simp] theorem dropWrite_sr (s : State) : (dropWrite s).sr = s.sr := rfl
@[simp] theorem dropWrite_rk (s : State) : (dropWrite s).rk = s.rk := rfl
@[simp] theorem dropWrite_status (s : State) : (dropWrite s).status = setFlag s.status .ovr := rfl
@[simp] theorem dropWrite_pend (s : State) : (dropWrite s).pend = s.pend := rfl
@[simp] theorem dropWrite_hostOps (s : State) : (dropWrite s).hostOps = s.hostOps := rfl
@[simp] theorem dropWrite_hostReads (s : State) : (dropWrite s).hostReads = s.hostReads := rfl
@[simp] theorem dropWrite_hostTurns (s : State) : (dropWrite s).hostTurns = s.hostTurns := rfl
@[simp] theorem dropWrite_draws (s : State) : (dropWrite s).draws = s.draws := rfl

/-! ### assertReset -/

@[simp] theorem assertReset_key (s : State) : (assertReset s).key = Config.draw s.draws := rfl
@[simp] theorem assertReset_iv (s : State) : (assertReset s).iv = Config.draw (s.draws + 1) := rfl
@[simp] theorem assertReset_din (s : State) : (assertReset s).din = Config.draw (s.draws + 2) := rfl
@[simp] theorem assertReset_dout (s : State) : (assertReset s).dout = Config.draw (s.draws + 3) := rfl
@[simp] theorem assertReset_sr (s : State) : (assertReset s).sr = Config.draw (s.draws + 4) := rfl
@[simp] theorem assertReset_rk (s : State) :
    (assertReset s).rk = Vector.ofFn fun i => (Config.draw (s.draws + 6 + i.val)).setWidth 48 := rfl
@[simp] theorem assertReset_status (s : State) : (assertReset s).status = 0 := rfl
@[simp] theorem assertReset_pend (s : State) : (assertReset s).pend = (Config.draw (s.draws + 5)).setWidth 32 := rfl
@[simp] theorem assertReset_hostOps (s : State) : (assertReset s).hostOps = s.hostOps := rfl
@[simp] theorem assertReset_hostReads (s : State) : (assertReset s).hostReads = s.hostReads := rfl
@[simp] theorem assertReset_hostTurns (s : State) : (assertReset s).hostTurns = 0 := rfl
@[simp] theorem assertReset_draws (s : State) : (assertReset s).draws = s.draws + 22 := rfl

end Sys2Proof.Machine
end

