-- ==== Sys2Proof/Laws/Ops.lean ====
section
/-! SUPPORT. What each shared operation can do, and what a step can do: proofs cite these instead of unfolding the
operations. -/

namespace Sys2Proof.Machine

/-! ### Ending a command -/

/-- A ready command succeeds with its effects. -/
theorem runWhen_ready {ready : Bool} (s t : State) (h : ready = true) :
    runWhen ready s t = .next (complete .none t) := by rw [runWhen, if_pos h]

/-- A command that is not ready raises NOT_READY and has no effect (60_exceptions.md R202). -/
theorem runWhen_notReady {ready : Bool} (s t : State) (h : ready = false) :
    runWhen ready s t = .next (raiseError .notReady s) := by rw [runWhen, h]; rfl

/-- The two ways a legal command ends. -/
theorem runWhen_cases {ready : Bool} {s t u : State} (h : runWhen ready s t = .next u) :
    (ready = true ∧ u = complete .none t) ∨ (ready = false ∧ u = raiseError .notReady s) := by
  cases ready
  · exact .inr ⟨rfl, by simpa [runWhen] using h.symm⟩
  · exact .inl ⟨rfl, by simpa [runWhen] using h.symm⟩

/-- The effects of a ready command before its completion, in named operations. -/
def effects (s : State) : Instr → State
  | .clr => clearOvr s
  | .keygen => loadRoundKeys s
  | .enc => writeDout (transform s.din s.rk .encrypt) s
  | .dec => writeDout (transform s.din s.rk .decrypt) s
  | .cfbInit => seedSr (loadRoundKeys s)
  | .cfbEnc n =>
    feedSr (pad s.din n ^^^ transform s.sr s.rk .encrypt) (writeDout (pad s.din n ^^^ transform s.sr s.rk .encrypt) s)
  | .cfbDec n => feedSr (pad s.din n) (writeDout (pad s.din n ^^^ transform s.sr s.rk .encrypt) s)
  | .reservedOp7 _ | .reservedOp8F _ _ => s

/-- A legal command is its Ready condition and its effects (42_commands.md R150). -/
theorem exec_legal (i : Instr) (s : State) (h : i.isReserved = false) :
    exec i s = runWhen (ready s i) s (effects s i) := by
  cases i <;> first | rfl | cases h

/-- A reserved opcode is illegal in every state (42_commands.md R158). -/
theorem exec_reserved (i : Instr) (s : State) (h : i.isReserved = true) :
    exec i s = .next (raiseError .illegalCommand s) := by
  cases i <;> first | rfl | cases h

/-- What performing a command can do: end with an error that has no other effect, or succeed because it was ready
(42_commands.md R150; 60_exceptions.md R206). -/
theorem exec_cases {i : Instr} {s u : State} (h : exec i s = .next u) :
    (i.isReserved = true ∧ u = raiseError .illegalCommand s) ∨
    (i.isReserved = false ∧ ready s i = false ∧ u = raiseError .notReady s) ∨
    (i.isReserved = false ∧ ready s i = true ∧ u = complete .none (effects s i)) := by
  cases hr : i.isReserved
  · rw [exec_legal i s hr] at h
    rcases runWhen_cases h with ⟨hy, rfl⟩ | ⟨hn, rfl⟩
    · exact .inr (.inr ⟨rfl, hy, rfl⟩)
    · exact .inr (.inl ⟨rfl, hn, rfl⟩)
  · rw [exec_reserved i s hr] at h
    exact .inl ⟨rfl, by simpa using h.symm⟩

/-- Performing a command always answers a next state (70_reset_and_hazards.md R242). -/
theorem exec_next (i : Instr) (s : State) : ∃ u, exec i s = .next u := by
  cases hr : i.isReserved
  · rw [exec_legal i s hr, runWhen]
    split <;> exact ⟨_, rfl⟩
  · exact ⟨_, exec_reserved i s hr⟩

/-! ### Whose turn it is -/

theorem nextAgent_engine_busy {s : State} (h : nextAgent s = .engine) : s.flag .busy = true := by
  unfold nextAgent at h
  split at h <;> split at h <;> simp_all

theorem nextAgent_host_ops {s : State} {op : HostOp} {rest : List HostOp} (h : nextAgent s = .host op rest) :
    s.hostOps = op :: rest := by
  unfold nextAgent at h
  split at h <;> split at h <;> simp_all

/-- What a step can do: the Engine performs the pending word, the Host performs its next operation, or nothing
happens. -/
theorem step_cases {s t : State} (h : step s = .next t) :
    (nextAgent s = .engine ∧ perform s = .next t) ∨
    (∃ op rest, nextAgent s = .host op rest ∧ t = hostTurn op rest s) ∨
    (nextAgent s = .nobody ∧ t = s) := by
  unfold step at h
  split at h
  · exact .inl ⟨‹_›, h⟩
  · exact .inr (.inl ⟨_, _, ‹_›, by simpa using h.symm⟩)
  · exact .inr (.inr ⟨‹_›, by simpa using h.symm⟩)

/-- A step that is the Host's performs its next operation. -/
theorem step_host {s : State} {op : HostOp} {rest : List HostOp} (h : nextAgent s = .host op rest) :
    step s = .next (hostTurn op rest s) := by rw [step, h]

/-- What performing the pending word can do: run the command it decodes to, or complete with ILLEGAL_COMMAND. -/
theorem perform_cases {s t : State} (h : perform s = .next t) :
    (∃ i, decode s.pend = .instr i ∧ exec i s = .next t) ∨
    (∃ r, decode s.pend = .illegal r ∧ t = raiseError .illegalCommand s) := by
  unfold perform at h
  split at h
  · exact .inl ⟨_, ‹_›, h⟩
  · exact .inr ⟨_, ‹_›, by simpa using h.symm⟩

/-! ### Host operations -/

/-- A host write while BUSY = 1 is dropped (20_memory.md R52). -/
theorem hostWrite_busy (a : RegAddr) (v : BusWord) (s : State) (h : s.flag .busy = true) :
    hostWrite a v s = dropWrite s := by rw [hostWrite, if_pos h]

/-- A host write while BUSY = 0 writes the register its number names (20_memory.md R51). -/
theorem hostWrite_idle (a : RegAddr) (v : BusWord) (s : State) (h : s.flag .busy = false) :
    hostWrite a v s = writeReg v s (regAt a) := by simp [hostWrite, h]

/-- The sixteen round keys stand at 0x10 to 0x1F (20_memory.md R51). -/
theorem regAt_rk {a : RegAddr} {i : Fin 16} (h : a.toNat = 16 + i.val) : regAt a = .rk i := by
  rw [regAt, dif_pos (by omega)]
  exact congrArg HostReg.rk (Fin.ext (by simp only; omega))

/-- The opcodes whose W(op) holds DOUT, SR and the round keys (20_memory.md R59). -/
theorem inWriteSet_results (op : BitVec 4) :
    inWriteSet op .dout = decide (op.toNat ∈ [2, 3, 5, 6]) ∧ inWriteSet op .sr = decide (op.toNat ∈ [4, 5, 6]) ∧
    ∀ i, inWriteSet op (.rk i) = decide (op.toNat ∈ [1, 4]) := by
  revert op; decide

/-- A read of a register that no pending command writes returns its content (20_memory.md R57, R59). -/
theorem hostReadValue_plain (s : State) (a : RegAddr) (h : underUpdate s (regAt a) = false) :
    hostReadValue s a = regValue s (regAt a) := by simp [hostReadValue, h]

/-- A read of a register that the pending command writes returns the next free value (20_memory.md R59). -/
theorem hostReadValue_underUpdate (s : State) (a : RegAddr) (h : underUpdate s (regAt a) = true) :
    hostReadValue s a = drawnFor s.draws (regAt a) := by simp [hostReadValue, h]

theorem underUpdate_busy (s : State) (r : HostReg) (h : s.flag .busy = true) :
    underUpdate s r = inWriteSet (opField s.pend) r := by simp [underUpdate, opField, h]

theorem underUpdate_idle (s : State) (r : HostReg) (h : s.flag .busy = false) : underUpdate s r = false := by
  simp [underUpdate, h]

end Sys2Proof.Machine
end

