-- ==== Sys2Proof/Laws/PerInstr.lean ====
section
/-! SUPPORT. Statements made per instruction, one lemma per constructor. -/

namespace Sys2Proof.Laws.EncodedLegality

/-- The word of a well-formed instruction is legal exactly when the instruction is no reserved opcode
(30_encoding.md R84, R85, R87). -/
def Statement (i : Instr) : Prop := i.wellFormed = true → legal (encode i) = !i.isReserved

theorem clr : Statement .clr := fun _ => by decide
theorem keygen : Statement .keygen := fun _ => by decide
theorem enc : Statement .enc := fun _ => by decide
theorem dec : Statement .dec := fun _ => by decide
theorem cfbInit : Statement .cfbInit := fun _ => by decide

theorem cfbEnc (n : Nat) : Statement (.cfbEnc n) := fun _ => by
  simp [legal, encode, opField_cmdWord, resField_cmdWord, Instr.isReserved]

theorem cfbDec (n : Nat) : Statement (.cfbDec n) := fun _ => by
  simp [legal, encode, opField_cmdWord, resField_cmdWord, Instr.isReserved]

theorem reservedOp7 (rest : BitVec 28) : Statement (.reservedOp7 rest) := fun _ => by
  simp [legal, encode, opField_append, Instr.isReserved]

theorem reservedOp8F (op : BitVec 4) (rest : BitVec 28) : Statement (.reservedOp8F op rest) := fun h => by
  have none : ∀ op : BitVec 4, 8 ≤ op.toNat →
      (op == 0x0 || op == 0x1 || op == 0x2 || op == 0x3 || op == 0x4) = false ∧ (op == 0x5 || op == 0x6) = false := by
    decide
  obtain ⟨h1, h2⟩ := none op (by simpa [Instr.wellFormed] using h)
  rw [legal, encode, opField_append, h1, h2]
  simp [Instr.isReserved]

end Sys2Proof.Laws.EncodedLegality
end

