-- ==== Sys2Proof/Laws/Run.lean ====
section
/-! SUPPORT. Runs of several steps, and what an Engine step leaves of the Host's side. -/

namespace Sys2Proof.Machine

theorem run_zero (s : State) : core.run 0 s = .next s := rfl

/-- A run's first step. -/
theorem run_succ (k : Nat) (s s' : State) (h : step s = .next s') : core.run (k + 1) s = core.run k s' := by
  simp only [Host.Core.run]
  rw [show core.step s = .next s' from h]

/-- One step is a run of length one. -/
theorem run_one (s s' : State) (h : step s = .next s') : core.run 1 s = .next s' := run_succ 0 s s' h

/-- Two runs make one. -/
theorem run_add (j k : Nat) (s s' : State) (h : core.run j s = .next s') : core.run (j + k) s = core.run k s' := by
  induction j generalizing s with
  | zero => cases h; rw [Nat.zero_add]
  | succ j ih =>
    cases hs : step s with
    | next u =>
      rw [run_succ j s u hs] at h
      rw [Nat.add_right_comm, run_succ _ s u hs]
      exact ih u h
    | fault r => cases r
    | refused r =>
      simp only [Host.Core.run] at h
      rw [show core.step s = .refused r from hs] at h
      cases h

/-- An Engine step touches nothing of the Host's side, and leaves BUSY = 0. -/
theorem perform_host {s t : State} (h : perform s = .next t) :
    t.hostOps = s.hostOps ∧ t.hostReads = s.hostReads ∧ t.hostTurns = s.hostTurns ∧ t.draws = s.draws ∧
      t.flag .busy = false := by
  rcases perform_cases h with ⟨i, _, hx⟩ | ⟨r, _, rfl⟩
  · rcases exec_cases hx with ⟨_, rfl⟩ | ⟨_, _, rfl⟩ | ⟨_, _, rfl⟩
    · simp [State.flag]
    · simp [State.flag]
    · cases i <;> simp [effects, State.flag]
  · simp [State.flag]

/-- STATUS is never under update, so a read of it is exact in every state (20_memory.md R59). -/
theorem hostReadValue_status (s : State) : hostReadValue s 0x06 = s.status.setWidth 64 := by
  simp [hostReadValue, underUpdate, inWriteSet, regAt, regValue]

end Sys2Proof.Machine
end

