-- ==== Sys2Proof/Tests/Slice0.lean ====
section
/-! SUPPORT. Tests of the model against the worked values of spec/ (95_test_vectors.md and the examples of the rules),
and for each obligation with hypotheses a concrete state and operands that meet them. -/

open Sys2Proof Sys2Proof.Machine

/-- A small concrete state: the known-answer key and block, every other register 0, the given STATUS. -/
def testState (status : StatusWord) : State where
  key := 0x133457799BBCDFF1
  iv := 0x1234567890ABCDEF
  din := 0x0123456789ABCDEF
  dout := 0
  sr := 0
  rk := Vector.replicate 16 0
  status := status
  pend := 0
  hostOps := []
  hostReads := []
  hostTurns := 0
  draws := 0

/-- The round keys of the known-answer key, KEY = 0x0123456789ABCDEF's, and a chain seeded with 0x1234567890ABCDEF:
V17, V22. -/
def chainState (din : Block) : State :=
  { testState 0xFFFF003E#32 with
    key := 0x0123456789ABCDEF, rk := keySchedule 0x0123456789ABCDEF, sr := 0x1234567890ABCDEF, din := din }

/-- The state with host operations to come. -/
def withOps (s : State) (ops : List HostOp) (turns : Nat) : State := { s with hostOps := ops, hostTurns := turns }

/-- The next state of an outcome, if it is one. -/
def nextOf (o : Host.Outcome State Fault Refusal) : Option State :=
  match o with
  | .next s => some s
  | .fault _ | .refused _ => none

/-! ### Well-formedness: each check refuses an ill-formed term -/

theorem test_wellFormed_cfbEnc_zero : (Instr.cfbEnc 0).wellFormed = false := by decide
theorem test_wellFormed_cfbEnc_65 : (Instr.cfbEnc 65).wellFormed = false := by decide
theorem test_wellFormed_cfbDec_zero : (Instr.cfbDec 0).wellFormed = false := by decide
theorem test_wellFormed_cfbDec_65 : (Instr.cfbDec 65).wellFormed = false := by decide
theorem test_wellFormed_reservedOp8F : (Instr.reservedOp8F 7 0).wellFormed = false := by decide

/-! ### Decoding: words written out bit by bit from 30_encoding.md R80 and R84 (RES, NB, OP), as in V25 -/

theorem test_decode_clr : decode 0b0000000000000000000000_000000_0000#32 = .instr .clr := by decide
theorem test_decode_keygen : decode 0b0000000000000000000000_000000_0001#32 = .instr .keygen := by decide
theorem test_decode_enc : decode 0b0000000000000000000000_000000_0010#32 = .instr .enc := by decide
theorem test_decode_dec : decode 0b0000000000000000000000_000000_0011#32 = .instr .dec := by decide
theorem test_decode_cfbInit : decode 0b0000000000000000000000_000000_0100#32 = .instr .cfbInit := by decide
theorem test_decode_cfbEnc_full : decode 0b0000000000000000000000_000000_0101#32 = .instr (.cfbEnc 64) := by decide
theorem test_decode_cfbEnc_56 : decode 0b0000000000000000000000_111000_0101#32 = .instr (.cfbEnc 56) := by decide
theorem test_decode_cfbDec_63 : decode 0b0000000000000000000000_111111_0110#32 = .instr (.cfbDec 63) := by decide
theorem test_decode_reservedOp7 :
    decode 0b1000000000000000000000_000001_0111#32 = .instr (.reservedOp7 0x8000001) := by decide
theorem test_decode_reservedOp8F :
    decode 0b1111111111111111111111_111111_1111#32 = .instr (.reservedOp8F 0xF 0xFFFFFFF) := by decide
theorem test_decode_reservedOp8F_low : decode 0x00000008 = .instr (.reservedOp8F 8 0) := by decide
theorem test_decode_nb_on_cfbInit : decode 0x000003F4 = .illegal .nbNotAllowed := by decide
theorem test_decode_res_on_clr : decode 0x00000400 = .illegal .reservedBitsSet := by decide
theorem test_decode_res_top : decode 0x80000005 = .illegal .reservedBitsSet := by decide
theorem test_table_word : decodeTableWord 32 0x385 = some (.cfbEnc 56) := by decide

/-! ### The datapath: 95_test_vectors.md V3 to V9, V12 -/

theorem test_apply_ip : apply tableIP 0x0123456789ABCDEF = 0xCC00CCFFF0AAF0AA := by decide +kernel
theorem test_apply_ipInv : apply tableIPInv 0x8000000000000000 = 0x0000000000000040 := by decide +kernel
theorem test_apply_pc1 : apply tablePC1 0x133457799BBCDFF1 = 0xF0CCAAF556678F := by decide +kernel
theorem test_apply_pc2 : apply tablePC2 0x80000000000000 = 0x080000000000 := by decide +kernel
theorem test_apply_e : apply tableE 0x80000000 = 0x400000000001 := by decide +kernel
theorem test_apply_p : apply tableP 0x5C82B597 = 0x234AA9BB := by decide +kernel
theorem test_rotl28 : rotl28 0xC000000 2 = 0x0000003 := by decide
/-- V7, the row 101010: row 2, column 5. -/
theorem test_sboxes : [sbox1, sbox2, sbox3, sbox4, sbox5, sbox6, sbox7, sbox8].map (sboxLookup · 0b101010) =
    [6, 4, 15, 11, 13, 8, 3, 12] := by decide
/-- V7, the row 011011: row 1, column 13. -/
theorem test_sboxes_row1 : [sbox1, sbox2, sbox3, sbox4, sbox5, sbox6, sbox7, sbox8].map (sboxLookup · 0b011011) =
    [5, 9, 11, 10, 9, 11, 15, 14] := by decide
theorem test_subst : subst 0x6117BA866527 = 0x5C82B597 := by decide +kernel
theorem test_subst_ones : subst 0xFFFFFFFFFFFF = 0xD9CE3DCB := by decide +kernel
theorem test_roundF : roundF 0xF0AAF0AA 0x1B02EFFC7072 = 0x234AA9BB := by decide +kernel
/-- V3. -/
theorem test_keySchedule : keyScheduleList 0x133457799BBCDFF1 =
    [0x1B02EFFC7072, 0x79AED9DBC9E5, 0x55FC8A42CF99, 0x72ADD6DB351D, 0x7CEC07EB53A8, 0x63A53E507B2F,
     0xEC84B7F618BC, 0xF78A3AC13BFB, 0xE0DBEBEDE781, 0xB1F347BA464F, 0x215FD3DED386, 0x7571F59467E9,
     0x97C5D1FABA41, 0x5F43B7F2E73A, 0xBF918D3D3F0A, 0xCB3D8B0E17F5] := by decide +kernel
/-- V12, the NBS vector with key 0x7CA110454A1A6E57, both directions. -/
theorem test_transform_nbs :
    transform 0x01A1D6D039776742 (keySchedule 0x7CA110454A1A6E57) .encrypt = 0x690F5B0D9A26939B ∧
    transform 0x01A1D6D039776742 (keySchedule 0x7CA110454A1A6E57) .decrypt = 0x30C4C8FD3010D20B := by decide +kernel
theorem test_pad_one : pad 0xFFFFFFFFFFFFFFFF 1 = 0x8000000000000000 := by decide
theorem test_pad_63 : pad 0xF123456789ABCDEF 63 = 0xF123456789ABCDEE := by decide

/-! ### The commands, one step each -/

/-- R151: STATUS = 0x342 becomes 0x002. -/
theorem test_clr : (nextOf (exec .clr (testState 0x343#32))).map (·.status) = some 0x002#32 := by decide
/-- R152, V26. -/
theorem test_keygen : (nextOf (exec .keygen (testState 0x003#32))).map (fun t => (t.rk[0], t.rk[15], t.status)) =
    some (0x1B02EFFC7072#48, 0xCB3D8B0E17F5#48, 0xFFFF0002#32) := by decide +kernel
theorem test_keygen_notReady : (nextOf (exec .keygen (testState 0x001#32))).map (·.status) = some 0x400#32 := by
  decide
/-- R153, V26: STATUS is 0xFFFF002A after. -/
theorem test_enc : (nextOf (exec .enc { testState 0xFFFF000B#32 with rk := keySchedule 0x133457799BBCDFF1 })).map
    (fun t => (t.dout, t.status)) = some (0x85E813540F0AB405#64, 0xFFFF002A#32) := by decide +kernel
/-- V26: RK[16] is missing. -/
theorem test_enc_notReady : (nextOf (exec .enc (testState 0x7FFF0009#32))).map (·.status) = some 0x7FFF0408#32 := by
  decide
/-- V12: DEC of the known-answer plaintext. -/
theorem test_dec : (nextOf (exec .dec { testState 0xFFFF000B#32 with rk := keySchedule 0x133457799BBCDFF1 })).map
    (·.dout) = some 0xEE0F7C12E0B09338#64 := by decide +kernel
/-- R155. -/
theorem test_cfbInit : (nextOf (exec .cfbInit { testState 0x007#32 with key := 0x0123456789ABCDEF })).map
    (fun t => (t.sr, t.rk[0], t.status)) = some (0x1234567890ABCDEF#64, 0x0B02679B49A5#48, 0xFFFF0016#32) := by
  decide +kernel
theorem test_cfbInit_notReady : (nextOf (exec .cfbInit (testState 0x003#32))).map (·.status) = some 0x402#32 := by
  decide
/-- V22, NB = 4: SR and DOUT are the ciphertext. -/
theorem test_cfbEnc : (nextOf (exec (.cfbEnc 4) (chainState 0xFFFFFFFFFFFFFFFF))).map (fun t => (t.dout, t.sr)) =
    some (0x4D661569AE874E25#64, 0x4D661569AE874E25#64) := by decide +kernel
/-- V26: SR never seeded. -/
theorem test_cfbEnc_notReady :
    (nextOf (exec (.cfbEnc 64) (testState 0xFFFF000B#32))).map (·.status) = some 0xFFFF040A#32 := by decide
/-- V22, NB = 32: SR is the padded input, not DOUT. -/
theorem test_cfbDec : (nextOf (exec (.cfbDec 32) (chainState 0xF123456789ABCDEF))).map (fun t => (t.dout, t.sr)) =
    some (0x4C45500EAE874E25#64, 0xF123456700000000#64) := by decide +kernel
/-- V18, block 0. -/
theorem test_cfbDec_full : (nextOf (exec (.cfbDec 64) (chainState 0xF3096249C7F46E51))).map
    (fun t => (t.dout, t.sr)) = some (0x4E6F772069732074#64, 0xF3096249C7F46E51#64) := by decide +kernel
theorem test_reservedOp7 : (nextOf (exec (.reservedOp7 0) (testState 0x441#32))).map (·.status) = some 0x340#32 := by
  decide
theorem test_reservedOp8F : (nextOf (exec (.reservedOp8F 8 0) (testState 0x003#32))).map (·.status) =
    some 0x302#32 := by decide

/-! ### Steps -/

/-- V26: illegal wins over not ready. -/
theorem test_step_illegal_wins : (nextOf (step (State.reset.withFetchWord 32 0x405))).map (·.status) =
    some 0x300#32 := by decide
/-- V26: an illegal CLR leaves OVR. -/
theorem test_step_illegal_clr : (nextOf (step ((testState 0xFFFF0042#32).withFetchWord 32 0x10))).map (·.status) =
    some 0xFFFF0342#32 := by decide
theorem test_step_enc_after_reset : (nextOf (step (State.reset.withFetchWord 32 0x2))).map (·.status) =
    some 0x400#32 := by decide
/-- With host turns left, a host write lands before the Engine step, and is dropped (V27, row 20). -/
theorem test_step_dropped_write : (nextOf (step (withOps (testState 0x80010003#32) [.write 0x00 0] 1))).map
    (fun t => (t.key, t.status)) = some (0x133457799BBCDFF1#64, 0x80010043#32) := by decide
/-- With none left, the Engine step comes first. -/
theorem test_step_engine_first : (nextOf (step (withOps (testState 0x003#32) [.write 0x00 0] 0))).map
    (fun t => (t.status, t.hostOps)) = some (0x002#32, [.write 0x00 0]) := by decide
theorem test_step_idle : nextOf (step (testState 0x002#32)) = some (testState 0x002#32) := by decide +kernel
theorem test_step_poll_waits : (nextOf (step (withOps (testState 0x003#32) [.poll] 2))).map
    (fun t => (t.hostOps, t.hostTurns, t.hostReads)) = some ([.poll], 1, []) := by decide

/-! ### Host transactions: V27 -/

theorem test_write_rk1 : (hostWrite 0x10 0xFFFF123456789ABC (testState 0#32)).status = 0x00010000#32 := by decide
theorem test_read_rk1 : hostReadValue (hostWrite 0x10 0xFFFF123456789ABC (testState 0#32)) 0x10 =
    0x0000123456789ABC := by decide
theorem test_write_rk16 : (hostWrite 0x1F 0x0000CB3D8B0E17F5 (testState 0x00010000#32)).status = 0x80010000#32 := by
  decide
theorem test_write_cmd : (hostWrite 0x05 0xFFFFFFFF00000001 (testState 0x80010002#32)).status = 0x80010003#32 ∧
    (hostWrite 0x05 0xFFFFFFFF00000001 (testState 0x80010002#32)).pend = 0x00000001#32 := by decide
theorem test_write_sr_ignored : hostWrite 0x04 0x2222222222222222 (testState 0x80010002#32) =
    testState 0x80010002#32 := by decide +kernel
theorem test_read_reserved : hostReadValue (testState 0xFFFF003E#32) 0x0F = 0 := by decide
theorem test_read_key_busy : hostReadValue { testState 0x80010003#32 with pend := 1 } 0x00 = 0x133457799BBCDFF1 := by
  decide

/-! ### Messages: V19, V20 and V24 -/

/-- The bits of "Now is the time for all", 23 bytes, are 184; its segment lengths are 64, 64 and 56. -/
theorem test_segLens : segLens 184 = [64, 64, 56] ∧ segLens 0 = [] ∧ segLens 64 = [64] := by decide
/-- V20: the one-bit message. -/
theorem test_one_bit_message : cfbEncrypt 0x1234567890ABCDEF [true] 0x0123456789ABCDEF =
    blockBits 0x3D661569AE874E25 := by decide +kernel
/-- V18: decryption of V17's three blocks. -/
theorem test_decryptChain : decryptChain (keySchedule 0x0123456789ABCDEF) 0x1234567890ABCDEF
    [0xF3096249C7F46E51, 0xA69E839B1A92F784, 0x03467133898EA622] =
    [0x4E6F772069732074, 0x68652074696D6520, 0x666F7220616C6C20] := by decide +kernel
theorem test_addr_map : ∀ i : Fin 16, regAt (addrOf (.rk i)) = .rk i := by decide
theorem test_issue_word : issueOps (.cfbEnc 56) = [.write 0x05 0x385, .poll] := by decide

/-! ### Witnesses: states and operands that meet the hypotheses of the obligations -/

theorem witness_DecodeOfEncode : (Instr.cfbEnc 1).wellFormed = true ∧ (Instr.cfbEnc 64).wellFormed = true ∧
    (Instr.reservedOp8F 8 0).wellFormed = true ∧ (Instr.reservedOp8F 15 0xFFFFFFF).wellFormed = true := by decide
theorem witness_EncodeOfDecode : decode 0x000003F6 = .instr (.cfbDec 63) ∧ decode 0x7 = .instr (.reservedOp7 0) := by
  decide
theorem witness_NbOnOtherCommands : (opField 0x00000014#32).toNat ≤ 4 ∧ nbField 0x00000014#32 ≠ 0 ∧
    nextAgent { testState 1#32 with pend := 0x14 } = .engine ∧
    decode 0x4 = .instr .cfbInit := by decide
theorem witness_ReservedBits : resField 0x00000400#32 ≠ 0 ∧ resField 0x80000005#32 ≠ 0 ∧
    nextAgent { testState 1#32 with pend := 0x400 } = .engine := by decide
theorem witness_StepRunsTheDecodedCommand :
    nextAgent (testState 1#32) = .engine ∧ decode (testState 1#32).pend = .instr .clr ∧
    decode 0x10 = .illegal .nbNotAllowed ∧
    nextAgent (withOps (testState 1#32) [.poll] 1) = .host .poll [] ∧
    nextAgent (withOps (testState 0#32) [.reset] 0) = .host .reset [] ∧
    nextAgent (testState 0#32) = .nobody := by decide
theorem witness_EveryStepAnswersANextState : nextAgent (withOps (testState 1#32) [.poll] 0) = .engine := by decide
theorem witness_Keygen : (testState 0x2#32).flag .kv = true := by decide
theorem witness_EncDec : (testState 0xFFFF0008#32).flag .dv = true ∧ (testState 0xFFFF0008#32).allRkv = true := by
  decide
theorem witness_CfbInit : (testState 0x6#32).flag .kv = true ∧ (testState 0x6#32).flag .ivv = true := by decide
theorem witness_CfbEncDec : (testState 0xFFFF0018#32).flag .dv = true ∧ (testState 0xFFFF0018#32).flag .srv = true ∧
    (testState 0xFFFF0018#32).allRkv = true := by decide
theorem witness_IllegalWords : nextAgent { testState 1#32 with pend := 0x7 } = .engine ∧ legal 0x7 = false := by decide
/-- Each way an input can be missing, one flag at a time. -/
theorem witness_MissingInput : (testState 0x0#32).flag .kv = false ∧ (testState 0xFFFF0010#32).flag .dv = false ∧
    (testState 0x7FFF0018#32).allRkv = false ∧ (testState 0xFFFE0018#32).allRkv = false ∧
    (testState 0x2#32).flag .ivv = false ∧ (testState 0xFFFF0008#32).flag .srv = false := by decide
theorem witness_FailedCommand : nextAgent { testState 1#32 with pend := 1 } = .engine ∧
    (nextOf (step { testState 1#32 with pend := 1 })).map (·.err) = some 4 := by decide
theorem witness_ErrorPriority : legal (0x405 : CmdWord) = false ∧ legal (0x1 : CmdWord) = true ∧
    decode 0x1 = .instr .keygen ∧ ready (testState 1#32) .keygen = false ∧ ready (testState 3#32) .keygen = true ∧
    (testState 1#32).flag .busy = true := by decide
theorem witness_WriteWhileBusy : (testState 0xFFFFFFFF#32).flag .busy = true ∧ (testState 1#32).flag .busy = true := by
  decide
theorem witness_WriteWhileIdle : (testState 0#32).flag .busy = false ∧ (testState 0xFFFF003E#32).flag .busy = false := by
  decide
theorem witness_HostWritesRoundKey : (0x10 : RegAddr).toNat = 16 + (0 : Fin 16).val ∧
    (0x1F : RegAddr).toNat = 16 + (15 : Fin 16).val := by decide
theorem witness_ReadOnlyAndReserved : 7 ≤ (0x07 : RegAddr).toNat ∧ (0x07 : RegAddr).toNat ≤ 15 ∧
    7 ≤ (0x0F : RegAddr).toNat ∧ (0x0F : RegAddr).toNat ≤ 15 := by decide
theorem witness_BusyRead : (opField 0x00000001#32).toNat ∉ [2, 3, 5, 6] ∧ (opField 0x00000001#32).toNat ∉ [4, 5, 6] ∧
    (opField 0x00000002#32).toNat ∉ [1, 4] ∧ (opField 0x0000000F#32).toNat ∉ [1, 4] := by decide
theorem witness_Idempotent : (0x02 : RegAddr).toNat < 3 ∧ 16 ≤ (0x10 : RegAddr).toNat := by decide
/-- A reset while a command is pending, and one while the engine is idle. -/
theorem witness_ResetStep : nextAgent (withOps (testState 1#32) [.reset, .poll] 1) = .host .reset [.poll] ∧
    nextAgent (withOps (testState 0xFFFF003E#32) [.reset] 0) = .host .reset [] := by decide
theorem witness_SafeStatus : (testState 0xFFFF0443#32).SafeStatus ∧ (testState 0x300#32).SafeStatus := by
  unfold State.SafeStatus; decide
theorem witness_SafeStatus_refuses : ¬(testState 0x100#32).SafeStatus ∧ ¬(testState 0x80#32).SafeStatus := by
  unfold State.SafeStatus; decide
theorem witness_FlagsCoherent : (testState 0xFFFF003E#32).FlagsCoherent ∧ ¬(testState 0x10#32).FlagsCoherent := by
  unfold State.FlagsCoherent; decide
theorem witness_step_of_busy : ∃ t, step { testState 0xFFFF007F#32 with pend := 2 } = .next t :=
  ⟨_, by rw [step, show nextAgent { testState 0xFFFF007F#32 with pend := 2 } = .engine by decide]; rfl⟩
theorem witness_OnlyReset : Flag.srv.isValidFlag = true ∧ (testState 0x10#32).flag .srv = true := by decide
theorem witness_Ovr : (testState 0x40#32).flag .ovr = true := by decide
theorem witness_ErrIsWritten : nextAgent (testState 0x400#32) ≠ .engine ∧ nextAgent (testState 1#32) = .engine := by
  decide
/-- Two states that differ in KEY only, with KV = 0, agree on the valid registers. -/
theorem witness_AgreeOnValid : AgreeOnValid (testState 1#32) { testState 1#32 with key := 0 } := by
  unfold AgreeOnValid; decide
theorem witness_AgreeOnValid_refuses : ¬AgreeOnValid (testState 2#32) { testState 2#32 with key := 0 } := by
  unfold AgreeOnValid; decide
theorem witness_CmdAndReserved : 7 ≤ (0x07 : RegAddr).toNat ∧ (0x07 : RegAddr).toNat ≤ 15 ∧
    7 ≤ (0x0F : RegAddr).toNat ∧ (0x0F : RegAddr).toNat ≤ 15 ∧ ¬7 ≤ (0x05 : RegAddr).toNat := by decide
/-- Both amounts, at the first and the last bit. -/
theorem witness_Rotl28 : (rotl28 0x8000001 1).getMsbD 0 = (0x8000001 : HalfKey).getMsbD 1 ∧
    (rotl28 0x8000001 1).getMsbD 27 = (0x8000001 : HalfKey).getMsbD 0 ∧
    (rotl28 0x8000001 2).getMsbD 0 = (0x8000001 : HalfKey).getMsbD 2 ∧
    (rotl28 0x8000001 2).getMsbD 27 = (0x8000001 : HalfKey).getMsbD 1 := by decide
/-- The least and the greatest count, at the first and the last bit. -/
theorem witness_Pad : (pad 0x8000000000000001 1).getMsbD 0 = true ∧ (pad 0x8000000000000001 1).getMsbD 63 = false ∧
    (pad 0x8000000000000001 64).getMsbD 0 = true ∧ (pad 0x8000000000000001 64).getMsbD 63 = true := by decide
theorem witness_KeyOrder : ((keyOrder (Vector.ofFn fun i : Fin 16 => BitVec.ofNat 48 i.val) .decrypt)[0]?) = some 15 ∧
    ((keyOrder (Vector.ofFn fun i : Fin 16 => BitVec.ofNat 48 i.val) .decrypt)[15]?) = some 0 := by decide +kernel
theorem witness_Parity : ∀ i, i < 64 → i % 8 ≠ 7 →
    (0x133457799BBCDFF1 : Block).getMsbD i = (0x133457799BBCDFF0 : Block).getMsbD i := by decide
theorem witness_SelfSync : 0 < [0xF3096249C7F46E51#64].length := by decide
theorem witness_CfbDecUndoesCfbEnc :
    (exec (.cfbEnc 1) (testState 0xFFFF0018#32)) = .next (complete .none
      (feedSr ((testState 0xFFFF0018#32).paddedDin 1 ^^^ (testState 0xFFFF0018#32).keystream)
        (writeDout ((testState 0xFFFF0018#32).paddedDin 1 ^^^ (testState 0xFFFF0018#32).keystream)
          (testState 0xFFFF0018#32)))) := by rfl
theorem witness_DecUndoesEnc : (exec .enc (testState 0xFFFF0008#32)) = .next (complete .none
    (writeDout ((testState 0xFFFF0008#32).transformDin .encrypt) (testState 0xFFFF0008#32))) := by rfl
theorem witness_Poll : (withOps (testState 1#32) [.poll] 3).hostOps = .poll :: [] := by decide
/-- The one-bit message and a written segment with other bits after it. -/
theorem witness_HostSequence : [(0xFFFFFFFFFFFFFFFF#64, 1)].map Prod.snd = segLens [true].length ∧
    [(0xFFFFFFFFFFFFFFFF#64, 1)].map (fun d => pad d.1 d.2) = segments [true] := by decide +kernel
theorem witness_Restore : (withOps (testState 0#32) (cfbStartOps 1 2) 0).hostOps = cfbStartOps 1 2 ∧
    (withOps (testState 0#32) (cfbStartOps 1 2) 0).flag .busy = false := by decide
/-- The whole hypotheses of the two host sequences, for the one-bit message. -/
theorem witness_HostSequence_state :
    (withOps (testState 0#32) (cfbEncryptOps 1 2 [(0xFFFFFFFFFFFFFFFF#64, 1)]) 0).flag .busy = false ∧
    (withOps (testState 0#32) (cfbEncryptOps 1 2 [(0xFFFFFFFFFFFFFFFF#64, 1)]) 0).hostOps =
      cfbEncryptOps 1 2 [(0xFFFFFFFFFFFFFFFF#64, 1)] ∧
    (withOps (testState 0#32) (cfbDecryptOps 1 2 [(0xFFFFFFFFFFFFFFFF#64, 1)]) 0).hostOps =
      cfbDecryptOps 1 2 [(0xFFFFFFFFFFFFFFFF#64, 1)] := by decide
/-- A command pending whose W(op) holds DOUT, one whose W(op) holds SR, and one whose W(op) holds the round keys. -/
theorem witness_BusyRead_free : { testState 1#32 with pend := 2 }.flag .busy = true ∧
    (opField { testState 1#32 with pend := 2 }.pend).toNat ∈ [2, 3, 5, 6] ∧
    (opField { testState 1#32 with pend := 4 }.pend).toNat ∈ [4, 5, 6] ∧
    (opField { testState 1#32 with pend := 1 }.pend).toNat ∈ [1, 4] := by decide
/-- KEYGEN pending: DOUT and SR read exactly; ENC pending: the round keys do. -/
theorem witness_BusyRead_state : { testState 1#32 with pend := 1 }.flag .busy = true ∧
    (opField { testState 1#32 with pend := 1 }.pend).toNat ∉ [2, 3, 5, 6] ∧
    { testState 1#32 with pend := 2 }.flag .busy = true ∧
    (opField { testState 1#32 with pend := 2 }.pend).toNat ∉ [1, 4] := by decide
end

section
/-! PROOFS. What one step does to the registers of spec/10_state.md, and the invariants that follow. -/

namespace Sys2Proof.Machine

/-! ### One step, as a change of the engine's registers -/

/-- The state a host operation acts on: the operation has left the queue and used up a host turn. -/
def dequeue (rest : List HostOp) (s : State) : State := { s with hostOps := rest, hostTurns := s.hostTurns - 1 }

@[simp] theorem dequeue_status (rest : List HostOp) (s : State) : (dequeue rest s).status = s.status := rfl
@[simp] theorem dequeue_key (rest : List HostOp) (s : State) : (dequeue rest s).key = s.key := rfl
@[simp] theorem dequeue_iv (rest : List HostOp) (s : State) : (dequeue rest s).iv = s.iv := rfl
@[simp] theorem dequeue_din (rest : List HostOp) (s : State) : (dequeue rest s).din = s.din := rfl
@[simp] theorem dequeue_dout (rest : List HostOp) (s : State) : (dequeue rest s).dout = s.dout := rfl
@[simp] theorem dequeue_sr (rest : List HostOp) (s : State) : (dequeue rest s).sr = s.sr := rfl
@[simp] theorem dequeue_rk (rest : List HostOp) (s : State) : (dequeue rest s).rk = s.rk := rfl
@[simp] theorem dequeue_pend (rest : List HostOp) (s : State) : (dequeue rest s).pend = s.pend := rfl
@[simp] theorem dequeue_hostOps (rest : List HostOp) (s : State) : (dequeue rest s).hostOps = rest := rfl
@[simp] theorem dequeue_hostReads (rest : List HostOp) (s : State) : (dequeue rest s).hostReads = s.hostReads := rfl
@[simp] theorem dequeue_hostTurns (rest : List HostOp) (s : State) :
    (dequeue rest s).hostTurns = s.hostTurns - 1 := rfl
@[simp] theorem dequeue_draws (rest : List HostOp) (s : State) : (dequeue rest s).draws = s.draws := rfl
@[simp] theorem dequeue_flag (rest : List HostOp) (s : State) (f : Flag) : (dequeue rest s).flag f = s.flag f := rfl

theorem hostTurn_eq (op : HostOp) (rest : List HostOp) (s : State) :
    hostTurn op rest s = performOp op (dequeue rest s) := rfl

/-- A STATUS read of a POLL changes no register (20_memory.md R57). -/
theorem sameEngine_pollStatus (s : State) : SameEngine s (pollStatus s) := by
  unfold pollStatus
  split <;> simp [SameEngine]

/-- What a step does to the engine's registers. -/
inductive StepEffect (s t : State) : Prop where
  /-- The Engine performs a ready command, which succeeds. -/
  | succeed (i : Instr) (hp : Performs s i) (hr : ready s i = true) (ht : t = complete .none (effects s i))
  /-- The Engine ends the pending command with an error. -/
  | fail (e : ErrCode) (ha : nextAgent s = .engine) (he : e = .illegalCommand ∨ e = .notReady)
      (hn : ∀ i, decode s.pend = .instr i → ready s i = false) (ht : t = raiseError e s)
  /-- RESET is asserted. -/
  | reset (hd : HostDoes s .reset) (ht : t.status = 0)
  /-- A host write while BUSY = 1 is dropped. -/
  | drop (rest : List HostOp) (ha : nextAgent s ≠ .engine) (ht : t = dropWrite (dequeue rest s))
  /-- A host write while BUSY = 0 takes effect. -/
  | write (a : RegAddr) (v : BusWord) (rest : List HostOp) (hd : HostDoes s (.write a v)) (hb : s.flag .busy = false)
      (ht : t = writeReg v (dequeue rest s) (regAt a))
  /-- No register changes: a read, a poll, or an idle machine. -/
  | keep (ha : nextAgent s ≠ .engine) (hs : SameEngine s t)

theorem ready_reserved {i : Instr} (s : State) (h : i.isReserved = true) : ready s i = false := by
  cases i with
  | reservedOp7 | reservedOp8F => rfl
  | _ => cases h

theorem HostDoes.not_engine {s : State} {op : HostOp} (h : HostDoes s op) : nextAgent s ≠ .engine := by
  obtain ⟨rest, hr⟩ := h
  simp [hr]

/-- The Engine's step succeeds with a ready command's effects, or ends in an error (42_commands.md R150). -/
theorem perform_effect {s t : State} (ha : nextAgent s = .engine) (h : perform s = .next t) : StepEffect s t := by
  rcases perform_cases h with ⟨i, hd, hx⟩ | ⟨r, hd, rfl⟩
  · have only : ∀ j, decode s.pend = .instr j → i = j := fun j hj => by simpa [hd] using hj
    rcases exec_cases hx with ⟨hr, rfl⟩ | ⟨-, hr, rfl⟩ | ⟨-, hr, rfl⟩
    · exact .fail _ ha (.inl rfl) (fun j hj => only j hj ▸ ready_reserved s hr) rfl
    · exact .fail _ ha (.inr rfl) (fun j hj => only j hj ▸ hr) rfl
    · exact .succeed i ⟨ha, hd⟩ hr rfl
  · exact .fail _ ha (.inl rfl) (fun j hj => by simp [hd] at hj) rfl

/-- The Host's step, by its operation (20_memory.md R52 to R59; 70_reset_and_hazards.md R230). -/
theorem hostTurn_effect {s : State} {op : HostOp} {rest : List HostOp} (h : nextAgent s = .host op rest) :
    StepEffect s (hostTurn op rest s) := by
  have hd : HostDoes s op := ⟨rest, h⟩
  rw [hostTurn_eq]
  cases op with
  | read a => exact .keep hd.not_engine ⟨rfl, rfl, rfl, rfl, rfl, rfl, rfl, rfl⟩
  | write a v =>
    cases hb : s.flag .busy with
    | true => exact .drop rest hd.not_engine (hostWrite_busy a v (dequeue rest s) hb)
    | false => exact .write a v rest hd hb (hostWrite_idle a v (dequeue rest s) hb)
  | poll => exact .keep hd.not_engine (sameEngine_pollStatus (dequeue rest s))
  | reset => exact .reset hd rfl

/-- Every step has one of the six effects. -/
theorem step_effect {s t : State} (h : step s = .next t) : StepEffect s t := by
  rcases step_cases h with ⟨ha, hp⟩ | ⟨op, rest, ha, rfl⟩ | ⟨ha, rfl⟩
  · exact perform_effect ha hp
  · exact hostTurn_effect ha
  · exact .keep (by simp [ha]) ⟨rfl, rfl, rfl, rfl, rfl, rfl, rfl, rfl⟩

/-! ### STATUS after each effect -/

theorem SameEngine.status_eq {s t : State} (h : SameEngine s t) : t.status = s.status := by
  obtain ⟨-, -, -, -, -, -, hst, -⟩ := h
  exact hst

theorem err_of_status_eq {s t : State} (h : t.status = s.status) : t.err = s.err := by
  rw [State.err, h, State.err]

theorem flag_of_status_eq {s t : State} (h : t.status = s.status) (f : Flag) : t.flag f = s.flag f := by
  rw [State.flag, h, State.flag]

theorem flag_of_status_zero {s : State} (h : s.status = 0) (f : Flag) : s.flag f = false := by
  simp [State.flag, getFlag, h]

@[simp] theorem flag_complete (c : ErrCode) (s : State) (f : Flag) :
    (complete c s).flag f = (!decide (f = .busy) && s.flag f) := by simp [State.flag]

@[simp] theorem flag_raiseError (c : ErrCode) (s : State) (f : Flag) :
    (raiseError c s).flag f = (!decide (f = .busy) && s.flag f) := flag_complete c s f

@[simp] theorem flag_dropWrite (s : State) (f : Flag) :
    (dropWrite s).flag f = (decide (f = .ovr) || s.flag f) := by simp [State.flag]

@[simp] theorem err_complete (c : ErrCode) (s : State) : (complete c s).err = c.code := by simp [State.err]

@[simp] theorem err_raiseError (c : ErrCode) (s : State) : (raiseError c s).err = c.code := err_complete c s

/-- The flags that a successful command sets (42_commands.md R151 to R157). -/
def setsFlag : Instr → Flag → Bool
  | .enc, f | .dec, f | .cfbEnc _, f | .cfbDec _, f => decide (f = .dov)
  | .keygen, f => decide (16 ≤ f.bit)
  | .cfbInit, f => decide (f = .srv) || decide (16 ≤ f.bit)
  | .clr, _ | .reservedOp7 _, _ | .reservedOp8F _ _, _ => false

/-- A successful command sets its flags and keeps the others, but that CLR clears OVR. -/
theorem flag_effects (i : Instr) (s : State) (f : Flag) :
    (effects s i).flag f = (setsFlag i f || (!(decide (i = .clr) && decide (f = .ovr)) && s.flag f)) := by
  cases i <;> simp [effects, setsFlag, State.flag, Bool.or_assoc]

@[simp] theorem reservedField_effects (i : Instr) (s : State) :
    reservedField (effects s i).status = reservedField s.status := by
  cases i <;> simp [effects]

/-- A host write leaves STATUS as it is or sets one flag, which is not a result's and not OVR (20_memory.md R53 to
R56). -/
theorem writeReg_status_cases (v : BusWord) (s : State) (r : HostReg) :
    (writeReg v s r).status = s.status ∨
      ∃ f, f ≠ .srv ∧ f ≠ .dov ∧ (writeReg v s r).status = setFlag s.status f := by
  cases r with
  | dout | sr | status | reserved => exact .inl rfl
  | key | iv | din | cmd | rk => exact .inr ⟨_, by simp, by simp, rfl⟩

theorem flag_writeReg_of_flag (v : BusWord) {s : State} (r : HostReg) {f : Flag} (h : s.flag f = true) :
    (writeReg v s r).flag f = true := by
  rcases writeReg_status_cases v s r with hw | ⟨g, -, -, hw⟩
  · rwa [flag_of_status_eq hw]
  · rw [State.flag, hw, getFlag_setFlag, show getFlag s.status f = true from h, Bool.or_true]

/-- A host write sets no result's flag. -/
theorem flag_writeReg_result (v : BusWord) (s : State) (r : HostReg) {f : Flag} (hf : f = .srv ∨ f = .dov) :
    (writeReg v s r).flag f = s.flag f := by
  rcases writeReg_status_cases v s r with hw | ⟨g, hs, hd, hw⟩
  · exact flag_of_status_eq hw f
  · have hg : f ≠ g := by rintro rfl; simp_all
    simp [State.flag, hw, hg]

@[simp] theorem err_writeReg (v : BusWord) (s : State) (r : HostReg) : (writeReg v s r).err = s.err := by
  rcases writeReg_status_cases v s r with hw | ⟨g, -, -, hw⟩ <;> simp [State.err, hw]

@[simp] theorem reservedField_writeReg (v : BusWord) (s : State) (r : HostReg) :
    reservedField (writeReg v s r).status = reservedField s.status := by
  rcases writeReg_status_cases v s r with hw | ⟨g, -, -, hw⟩ <;> simp [hw]

/-! ### The reserved bits and ERR -/

theorem safeStatus_of_status_zero {s : State} (h : s.status = 0) : s.SafeStatus := by
  simp [State.SafeStatus, State.err, h, reservedField, errField]

theorem State.SafeStatus.of_eq {s t : State} (hs : s.SafeStatus)
    (hr : reservedField t.status = reservedField s.status) (he : t.err = s.err) : t.SafeStatus := by
  rwa [State.SafeStatus, hr, he]

/-- Settles O31: a completion writes ERR 0, 3 or 4, and nothing else writes ERR or a reserved bit but reset. -/
theorem safeStatusIsKept : Obligations.SafeStatusIsKept := by
  intro s t hs h
  cases step_effect h with
  | succeed i hp hr ht => exact ht ▸ ⟨by simpa using hs.1, by simp [ErrCode.code]⟩
  | fail e ha he hn ht =>
    refine ht ▸ ⟨by simpa using hs.1, ?_⟩
    rcases he with rfl | rfl <;> simp [ErrCode.code]
  | reset hd ht => exact safeStatus_of_status_zero ht
  | drop rest ha ht => exact ht ▸ hs.of_eq (by simp) (by simp [State.err])
  | write a v rest hd hb ht => exact ht ▸ hs.of_eq (by simp) (err_writeReg v _ _)
  | keep ha hk =>
    have hst := hk.status_eq
    exact hs.of_eq (by rw [hst]) (err_of_status_eq hst)

/-! ### The flags -/

/-- A flag other than BUSY is cleared by reset only, but that CLR clears OVR (10_state.md R31, R40). -/
theorem step_flag_kept {s t : State} {f : Flag} (h : step s = .next t) (hf : f ≠ .busy) (hs : s.flag f = true) :
    t.flag f = true ∨ HostDoes s .reset ∨ (f = .ovr ∧ Performs s .clr) := by
  cases step_effect h with
  | succeed i hp hr ht =>
    by_cases hc : i = .clr ∧ f = .ovr
    · exact .inr (.inr ⟨hc.2, hc.1 ▸ hp⟩)
    · have hk : (decide (i = .clr) && decide (f = .ovr)) = false := by simpa using hc
      exact .inl (by simp [ht, flag_effects, hf, hs, hk])
  | fail e ha he hn ht => exact .inl (by simp [ht, hf, hs])
  | reset hd ht => exact .inr (.inl hd)
  | drop rest ha ht => exact .inl (by simp [ht, hs])
  | write a v rest hd hb ht => exact .inl (ht ▸ flag_writeReg_of_flag v _ hs)
  | keep ha hk => exact .inl ((flag_of_status_eq hk.status_eq f).trans hs)

/-- Settles O34: the valid flags are neither BUSY nor OVR. -/
theorem onlyResetClearsAValidFlag : Obligations.OnlyResetClearsAValidFlag := by
  intro s t f hv hs h
  have hb : f ≠ .busy := by rintro rfl; cases hv
  rcases step_flag_kept h hb hs with ht | hd | ⟨rfl, -⟩
  · exact .inl ht
  · exact .inr hd
  · cases hv

/-- Settles O35. -/
theorem ovrIsSticky : Obligations.OvrIsSticky := by
  intro s t hs h
  rcases step_flag_kept h (by simp) hs with ht | hd | ⟨-, hc⟩
  · exact .inl ht
  · exact .inr (.inr hd)
  · exact .inr (.inl hc)

theorem allRkv_iff (s : State) : s.allRkv = true ↔ ∀ i, s.flag (.rkv i) = true := rkvField_eq_ones s.status

theorem flagsCoherent_of_status_zero {s : State} (h : s.status = 0) : s.FlagsCoherent := by
  simp [State.FlagsCoherent, flag_of_status_zero h]

/-- What SRV = 1 after a step comes from: it was 1, or a CFB_INIT was ready and set all of RKV (42_commands.md
R155). -/
theorem step_srv {s t : State} (h : step s = .next t) (hs : t.flag .srv = true) :
    s.flag .srv = true ∨ (s.flag .kv = true ∧ s.flag .ivv = true ∧ t.allRkv = true) := by
  cases step_effect h with
  | succeed i hp hr ht =>
    cases i with
    | cfbInit =>
      obtain ⟨hk, hi⟩ : s.flag .kv = true ∧ s.flag .ivv = true := by simpa [ready] using hr
      refine .inr ⟨hk, hi, (allRkv_iff t).mpr fun j => ?_⟩
      simp [ht, flag_effects, setsFlag, Flag.bit]
    | _ => exact .inl (by simpa [ht, flag_effects, setsFlag, Flag.bit] using hs)
  | fail e ha he hn ht => exact .inl (by simpa [ht] using hs)
  | reset hd ht => simp [flag_of_status_zero ht] at hs
  | drop rest ha ht => exact .inl (by simpa [ht] using hs)
  | write a v rest hd hb ht => exact .inl (by rwa [ht, flag_writeReg_result _ _ _ (.inl rfl)] at hs)
  | keep ha hk => exact .inl (flag_of_status_eq hk.status_eq .srv ▸ hs)

/-- What DOV = 1 after a step comes from: it was 1, or a command that writes DOUT was ready (42_commands.md R153,
R154, R156, R157). -/
theorem step_dov {s t : State} (h : step s = .next t) (hs : t.flag .dov = true) :
    s.flag .dov = true ∨ (s.flag .dv = true ∧ s.allRkv = true) := by
  cases step_effect h with
  | succeed i hp hr ht =>
    cases i with
    | enc | dec => exact .inr (by simpa [ready] using hr)
    | cfbEnc n | cfbDec n =>
      obtain ⟨⟨hd, -⟩, hk⟩ : (s.flag .dv = true ∧ s.flag .srv = true) ∧ s.allRkv = true := by
        simpa [ready] using hr
      exact .inr ⟨hd, hk⟩
    | _ => exact .inl (by simpa [ht, flag_effects, setsFlag, Flag.bit] using hs)
  | fail e ha he hn ht => exact .inl (by simpa [ht] using hs)
  | reset hd ht => simp [flag_of_status_zero ht] at hs
  | drop rest ha ht => exact .inl (by simpa [ht] using hs)
  | write a v rest hd hb ht => exact .inl (by rwa [ht, flag_writeReg_result _ _ _ (.inr rfl)] at hs)
  | keep ha hk => exact .inl (flag_of_status_eq hk.status_eq .dov ▸ hs)

/-- A reset step leaves STATUS = 0 (70_reset_and_hazards.md R230). -/
theorem step_reset_status {s t : State} (hd : HostDoes s .reset) (h : step s = .next t) : t.status = 0 := by
  obtain ⟨rest, hr⟩ := hd
  cases (step_host hr).symm.trans h
  rfl

/-- A step that leaves any flag set is no reset, so it clears no valid flag. -/
theorem step_validFlag_kept {s t : State} {f g : Flag} (h : step s = .next t) (hg : t.flag g = true)
    (hv : f.isValidFlag = true) (hs : s.flag f = true) : t.flag f = true := by
  rcases onlyResetClearsAValidFlag s t f hv hs h with ht | hd
  · exact ht
  · simp [flag_of_status_zero (step_reset_status hd h)] at hg

theorem step_allRkv_kept {s t : State} {g : Flag} (h : step s = .next t) (hg : t.flag g = true)
    (hs : s.allRkv = true) : t.allRkv = true :=
  (allRkv_iff t).mpr fun i => step_validFlag_kept h hg rfl ((allRkv_iff s).mp hs i)

/-- Settles O32: a result's flag is set by a command whose Ready condition holds, and only a reset, which clears the
result's flag too, clears the flags of the inputs. -/
theorem flagsCoherentIsKept : Obligations.FlagsCoherentIsKept := by
  intro s t ⟨hsrv, hdov⟩ h
  refine ⟨fun ht => ?_, fun ht => ?_⟩
  · rcases step_srv h ht with hs | ⟨hk, hi, hr⟩
    · obtain ⟨hk, hi, hr⟩ := hsrv hs
      exact ⟨step_validFlag_kept h ht rfl hk, step_validFlag_kept h ht rfl hi, step_allRkv_kept h ht hr⟩
    · exact ⟨step_validFlag_kept h ht rfl hk, step_validFlag_kept h ht rfl hi, hr⟩
  · obtain ⟨hd, hr⟩ : s.flag .dv = true ∧ s.allRkv = true := (step_dov h ht).elim hdov id
    exact ⟨step_validFlag_kept h ht rfl hd, step_allRkv_kept h ht hr⟩

/-! ### ERR -/

/-- ERR is left alone by every step but the Engine's and a reset (10_state.md R30). -/
theorem step_err_kept {s t : State} (h : step s = .next t) (ha : nextAgent s ≠ .engine) :
    t.err = s.err ∨ HostDoes s .reset := by
  cases step_effect h with
  | succeed i hp => exact absurd hp.1 ha
  | fail e he => exact absurd he ha
  | reset hd => exact .inr hd
  | drop rest _ ht => exact .inl (by simp [ht, State.err])
  | write a v rest _ _ ht => exact .inl (ht ▸ err_writeReg v _ _)
  | keep _ hk => exact .inl (err_of_status_eq hk.status_eq)

/-- The Engine's step leaves ERR = 0 exactly when the pending command was legal and ready (10_state.md R30). -/
theorem step_err_engine {s t : State} (h : step s = .next t) (ha : nextAgent s = .engine) :
    t.err = 0 ↔ ∃ i, decode s.pend = .instr i ∧ ready s i = true := by
  cases step_effect h with
  | succeed i hp hr ht => exact iff_of_true (by simp [ht, ErrCode.code]) ⟨i, hp.2, hr⟩
  | fail e _ he hn ht =>
    refine iff_of_false ?_ fun ⟨i, hd, hr⟩ => by simp [hn i hd] at hr
    rcases he with rfl | rfl <;> simp [ht, ErrCode.code]
  | reset hd => exact absurd ha hd.not_engine
  | drop _ hne => exact absurd ha hne
  | write _ _ _ hd => exact absurd ha hd.not_engine
  | keep hne => exact absurd ha hne

/-- Settles O36. -/
theorem errIsWrittenAtCompletion : Obligations.ErrIsWrittenAtCompletion :=
  ⟨fun _ _ => step_err_kept, fun _ _ => step_err_engine⟩

/-! ### The registers after each effect -/

@[simp] theorem effects_key (i : Instr) (s : State) : (effects s i).key = s.key := by cases i <;> rfl
@[simp] theorem effects_iv (i : Instr) (s : State) : (effects s i).iv = s.iv := by cases i <;> rfl
@[simp] theorem effects_din (i : Instr) (s : State) : (effects s i).din = s.din := by cases i <;> rfl
@[simp] theorem effects_pend (i : Instr) (s : State) : (effects s i).pend = s.pend := by cases i <;> rfl

@[simp] theorem writeReg_sr (v : BusWord) (s : State) (r : HostReg) : (writeReg v s r).sr = s.sr := by
  cases r <;> rfl
@[simp] theorem writeReg_dout (v : BusWord) (s : State) (r : HostReg) : (writeReg v s r).dout = s.dout := by
  cases r <;> rfl

/-- DOUT is the result of ENC, DEC, CFB_ENC and CFB_DEC (10_state.md R25). -/
theorem effects_dout_cases (i : Instr) (s : State) :
    (effects s i).dout = s.dout ∨ i = .enc ∨ i = .dec ∨ (∃ n, i = .cfbEnc n) ∨ ∃ n, i = .cfbDec n := by
  cases i with
  | enc | dec | cfbEnc | cfbDec => simp
  | _ => exact .inl rfl

/-- The round keys are the result of KEYGEN and CFB_INIT (10_state.md R27). -/
theorem effects_rk_cases (i : Instr) (s : State) :
    (effects s i).rk = s.rk ∨ i = .keygen ∨ i = .cfbInit := by
  cases i with
  | keygen | cfbInit => simp
  | _ => exact .inl rfl

/-- SR is the result of CFB_INIT, CFB_ENC and CFB_DEC, each with its own value (10_state.md R26). -/
theorem effects_sr_cases (i : Instr) (s : State) :
    (effects s i).sr = s.sr ∨ (i = .cfbInit ∧ (effects s i).sr = s.iv) ∨
    (∃ n, i = .cfbEnc n ∧ (effects s i).sr = (effects s i).dout) ∨
    ∃ n, i = .cfbDec n ∧ (effects s i).sr = pad s.din n := by
  cases i with
  | cfbInit => exact .inr (.inl ⟨rfl, rfl⟩)
  | cfbEnc n => exact .inr (.inr (.inl ⟨n, rfl, rfl⟩))
  | cfbDec n => exact .inr (.inr (.inr ⟨n, rfl, rfl⟩))
  | _ => exact .inl rfl

/-- Settles O37. -/
theorem srChangesOnlyByCfbCommands : Obligations.SrChangesOnlyByCfbCommands := by
  intro s t h
  cases step_effect h with
  | succeed i hp hr ht =>
    subst ht
    rcases effects_sr_cases i s with hs | ⟨rfl, hs⟩ | ⟨n, rfl, hs⟩ | ⟨n, rfl, hs⟩
    · exact .inl hs
    · exact .inr (.inr (.inl ⟨hp, hs⟩))
    · exact .inr (.inr (.inr (.inl ⟨n, hp, hs⟩)))
    · exact .inr (.inr (.inr (.inr ⟨n, hp, hs⟩)))
  | fail _ _ _ _ ht => exact .inl (by simp [ht])
  | reset hd => exact .inr (.inl hd)
  | drop _ _ ht => exact .inl (by simp [ht])
  | write _ _ _ _ _ ht => exact .inl (by simp [ht])
  | keep _ hk =>
    obtain ⟨-, -, -, -, hsr, -⟩ := hk
    exact .inl hsr

/-! ### The register a host write reaches -/

/-- The register numbers of KEY, IV, DIN and CMD (20_memory.md R51). -/
theorem regAt_eq_iff (a : RegAddr) :
    (regAt a = .key ↔ a = 0x00) ∧ (regAt a = .iv ↔ a = 0x01) ∧ (regAt a = .din ↔ a = 0x02) ∧
    (regAt a = .cmd ↔ a = 0x05) := by
  revert a; decide

/-- The register numbers of the round keys (20_memory.md R51). -/
theorem toNat_of_regAt_rk {a : RegAddr} {i : Fin 16} (h : regAt a = .rk i) : a.toNat = 16 + i.val := by
  revert a i; decide

/-- A host write changes no register but the one it names, and KEY, IV and DIN take its value (20_memory.md R53 to
R56). -/
theorem writeReg_cases (v : BusWord) (s : State) (r : HostReg) :
    ((writeReg v s r).key = s.key ∨ r = .key ∧ (writeReg v s r).key = v) ∧
    ((writeReg v s r).iv = s.iv ∨ r = .iv ∧ (writeReg v s r).iv = v) ∧
    ((writeReg v s r).din = s.din ∨ r = .din ∧ (writeReg v s r).din = v) ∧
    (∀ i, (writeReg v s r).roundKey i = s.roundKey i ∨ r = .rk i) ∧
    ((writeReg v s r).pend = s.pend ∨ r = .cmd) := by
  cases r with
  | rk j =>
    refine ⟨.inl rfl, .inl rfl, .inl rfl, fun i => ?_, .inl rfl⟩
    by_cases hij : j = i
    · exact .inr (hij ▸ rfl)
    · have hne : j.val ≠ i.val := fun h => hij (Fin.ext h)
      exact .inl (by simp [writeReg, State.roundKey, hne])
  | _ => simp [writeReg, State.roundKey]

/-- Settles O38. -/
theorem registersChangeOnlyByTheirWriters : Obligations.RegistersChangeOnlyByTheirWriters := by
  intro s t h
  cases step_effect h with
  | succeed i hp hr ht =>
    subst ht
    refine ⟨.inl (by simp), .inl (by simp), .inl (by simp), ?_, fun j => ?_, .inl (by simp)⟩
    · rcases effects_dout_cases i s with hs | rfl | rfl | ⟨n, rfl⟩ | ⟨n, rfl⟩
      · exact .inl hs
      · exact .inr (.inr (.inl hp))
      · exact .inr (.inr (.inr (.inl hp)))
      · exact .inr (.inr (.inr (.inr (.inl ⟨n, hp⟩))))
      · exact .inr (.inr (.inr (.inr (.inr ⟨n, hp⟩))))
    · rcases effects_rk_cases i s with hs | rfl | rfl
      · exact .inl (congrArg (·[j]) hs)
      · exact .inr (.inr (.inl hp))
      · exact .inr (.inr (.inr (.inl hp)))
  | fail _ _ _ _ ht => subst ht; exact ⟨.inl rfl, .inl rfl, .inl rfl, .inl rfl, fun _ => .inl rfl, .inl rfl⟩
  | reset hd =>
    exact ⟨.inr (.inl hd), .inr (.inl hd), .inr (.inl hd), .inr (.inl hd), fun _ => .inr (.inl hd), .inr (.inl hd)⟩
  | drop _ _ ht => subst ht; exact ⟨.inl rfl, .inl rfl, .inl rfl, .inl rfl, fun _ => .inl rfl, .inl rfl⟩
  | write a v rest hd hb ht =>
    obtain ⟨hkey, hiv, hdin, hrk, hpend⟩ := writeReg_cases v (dequeue rest s) (regAt a)
    obtain ⟨akey, aiv, adin, acmd⟩ := regAt_eq_iff a
    subst ht
    have hw : ∀ {b w}, a = b → w = v → HostDoes s (.write b w) := fun hab hwv => hab ▸ hwv ▸ hd
    exact ⟨hkey.imp_right fun ⟨ha, hv⟩ => .inr ⟨hb, hw (akey.mp ha) hv⟩,
      hiv.imp_right fun ⟨ha, hv⟩ => .inr ⟨hb, hw (aiv.mp ha) hv⟩,
      hdin.imp_right fun ⟨ha, hv⟩ => .inr ⟨hb, hw (adin.mp ha) hv⟩,
      .inl (writeReg_dout v _ _),
      fun i => (hrk i).imp_right fun ha => .inr (.inr (.inr ⟨hb, a, v, hd, toNat_of_regAt_rk ha⟩)),
      hpend.imp_right fun ha => .inr ⟨hb, v, hw (acmd.mp ha) rfl⟩⟩
  | keep _ hk =>
    obtain ⟨hkey, hiv, hdin, hdout, -, hrk, -, hpend⟩ := hk
    exact ⟨.inl hkey, .inl hiv, .inl hdin, .inl hdout, fun i => .inl (congrArg (·[i]) hrk), .inl hpend⟩

/-! ### Reset -/

/-- Settles O30: the reset finds the counter of free values as it was, and draws from there. -/
theorem resetStepDrawsEveryRegister : Obligations.ResetStepDrawsEveryRegister :=
  fun _ _ h => ⟨step_host h, rfl⟩

/-- Settles O29. -/
theorem resetLeavesStatusZeroAndIdle : Obligations.ResetLeavesStatusZeroAndIdle :=
  ⟨rfl, flag_of_status_zero rfl, rfl, rfl⟩

/-- Settles O33. -/
theorem resetMeetsTheInvariants : Obligations.ResetMeetsTheInvariants :=
  ⟨safeStatus_of_status_zero rfl, flagsCoherent_of_status_zero rfl⟩

end Sys2Proof.Machine
end

section
/-! PROOFS. Registers without their valid flag do not leak (10_state.md R40, R43).

Every register has a flag that says when its content counts: its valid flag, and BUSY for PEND. Two states agree when
they have the same STATUS and Host, and the same content wherever the flag is 1. -/

namespace Sys2Proof.Machine

/-- The register whose content counts only while the flag is 1 (10_state.md R28, R40); OVR stands for none. -/
def guarded (s : State) : Flag → BusWord
  | .busy => s.pend.setWidth 64
  | .kv => s.key
  | .ivv => s.iv
  | .dv => s.din
  | .srv => s.sr
  | .dov => s.dout
  | .ovr => 0
  | .rkv i => (s.roundKey i).setWidth 64

/-- The two states have the same Host still to come, the same schedule and the same free values to come. -/
def SameHost (s t : State) : Prop := s.hostOps = t.hostOps ∧ s.hostTurns = t.hostTurns ∧ s.draws = t.draws

theorem setWidth_bus_inj {w : Nat} (hw : w ≤ 64) {x y : BitVec w} :
    x.setWidth 64 = y.setWidth 64 ↔ x = y := by
  refine ⟨fun h => ?_, congrArg _⟩
  simpa [BitVec.setWidth_setWidth_of_le, hw] using congrArg (BitVec.setWidth w) h

/-- Agreement, flag by flag. -/
theorem agreeOnValid_iff {s t : State} : AgreeOnValid s t ↔
    s.status = t.status ∧ SameHost s t ∧ ∀ f, s.flag f = true → guarded s f = guarded t f := by
  constructor
  · rintro ⟨hst, hops, hturns, hdraws, hpend, hkey, hiv, hdin, hsr, hdout, hrk⟩
    refine ⟨hst, ⟨hops, hturns, hdraws⟩, fun f hf => ?_⟩
    cases f with
    | busy => exact congrArg (BitVec.setWidth 64) (hpend hf)
    | kv => exact hkey hf
    | ivv => exact hiv hf
    | dv => exact hdin hf
    | srv => exact hsr hf
    | dov => exact hdout hf
    | ovr => rfl
    | rkv i => exact congrArg (BitVec.setWidth 64) (hrk i hf)
  · rintro ⟨hst, ⟨hops, hturns, hdraws⟩, hg⟩
    exact ⟨hst, hops, hturns, hdraws, fun hf => (setWidth_bus_inj (by decide)).mp (hg .busy hf), hg .kv, hg .ivv,
      hg .dv, hg .srv, hg .dov, fun i hf => (setWidth_bus_inj (by decide)).mp (hg (.rkv i) hf)⟩

section
variable {s t : State} (h : AgreeOnValid s t)
include h

theorem AgreeOnValid.status_eq : s.status = t.status := (agreeOnValid_iff.mp h).1

theorem AgreeOnValid.sameHost : SameHost s t := (agreeOnValid_iff.mp h).2.1

theorem AgreeOnValid.guarded_eq {f : Flag} (hf : s.flag f = true) : guarded s f = guarded t f :=
  (agreeOnValid_iff.mp h).2.2 f hf

theorem AgreeOnValid.flag_eq (f : Flag) : s.flag f = t.flag f := (flag_of_status_eq h.status_eq.symm f).symm

theorem AgreeOnValid.pend_eq (hb : s.flag .busy = true) : s.pend = t.pend :=
  (setWidth_bus_inj (by decide)).mp (h.guarded_eq hb)

/-- With all of RKV set, the round-key files are the same. -/
theorem AgreeOnValid.rk_eq (hr : s.allRkv = true) : s.rk = t.rk :=
  Vector.ext fun i hi =>
    (setWidth_bus_inj (by decide)).mp (h.guarded_eq (f := .rkv ⟨i, hi⟩) ((allRkv_iff s).mp hr ⟨i, hi⟩))

theorem AgreeOnValid.ready_eq (i : Instr) : ready s i = ready t i := by
  have hr : s.allRkv = t.allRkv := by rw [State.allRkv, h.status_eq, State.allRkv]
  cases i <;> simp [ready, h.flag_eq, hr]

theorem AgreeOnValid.nextAgent_eq : nextAgent s = nextAgent t := by
  obtain ⟨hops, hturns, -⟩ := h.sameHost
  simp [nextAgent, hops, hturns, h.flag_eq]

theorem AgreeOnValid.underUpdate_eq (r : HostReg) : underUpdate s r = underUpdate t r := by
  cases hb : s.flag .busy with
  | true => rw [underUpdate_busy s r hb, underUpdate_busy t r (h.flag_eq .busy ▸ hb), h.pend_eq hb]
  | false => rw [underUpdate_idle s r hb, underUpdate_idle t r (h.flag_eq .busy ▸ hb)]

/-! #### What keeps agreement -/

/-- An update that sets no flag, and after which every guarded register is as before or the same in both states. -/
theorem AgreeOnValid.update {s' t' : State} (hst : s'.status = t'.status) (hh : SameHost s' t')
    (hg : ∀ f, s'.flag f = true →
      guarded s' f = guarded t' f ∨ (s.flag f = true ∧ guarded s' f = guarded s f ∧ guarded t' f = guarded t f)) :
    AgreeOnValid s' t' := by
  refine agreeOnValid_iff.mpr ⟨hst, hh, fun f hf => ?_⟩
  rcases hg f hf with he | ⟨hs, hks, hkt⟩
  · exact he
  · rw [hks, hkt, h.guarded_eq hs]

/-- An update that changes no guarded register and sets no flag. -/
theorem AgreeOnValid.keep {s' t' : State} (hst : s'.status = t'.status) (hh : SameHost s' t')
    (hf : ∀ f, s'.flag f = true → s.flag f = true) (hs : guarded s' = guarded s) (ht : guarded t' = guarded t) :
    AgreeOnValid s' t' :=
  h.update hst hh fun f hf' => .inr ⟨hf f hf', congrFun hs f, congrFun ht f⟩

end

/-- The update sets the flag `g` and changes no guarded register but `g`'s. -/
structure SetsOnly (op : State → State) (g : Flag) : Prop where
  status : ∀ u, (op u).status = setFlag u.status g
  kept : ∀ u f, f ≠ g → guarded (op u) f = guarded u f

theorem setsOnly_writeDout (v : Block) : SetsOnly (writeDout v) .dov :=
  ⟨fun _ => rfl, fun _ f hf => by cases f <;> trivial⟩

theorem setsOnly_seedSr : SetsOnly seedSr .srv := ⟨fun _ => rfl, fun _ f hf => by cases f <;> trivial⟩

theorem setsOnly_dropWrite : SetsOnly dropWrite .ovr := ⟨fun _ => rfl, fun _ f _ => by cases f <;> rfl⟩

theorem setsOnly_accept (v : BusWord) : SetsOnly (accept v) .busy :=
  ⟨fun _ => rfl, fun _ f hf => by cases f <;> trivial⟩

theorem setsOnly_writeRoundKey (i : Fin 16) (v : BusWord) : SetsOnly (writeRoundKey i v) (.rkv i) := by
  refine ⟨fun _ => rfl, fun u f hf => ?_⟩
  cases f with
  | rkv j =>
    have hne : i.val ≠ j.val := fun h => hf (congrArg Flag.rkv (Fin.ext h.symm))
    simp [guarded, State.roundKey, hne]
  | _ => rfl

theorem setsOnly_writeKey (v : BusWord) : SetsOnly (writeReg v · .key) .kv :=
  ⟨fun _ => rfl, fun _ f hf => by cases f <;> trivial⟩

theorem setsOnly_writeIv (v : BusWord) : SetsOnly (writeReg v · .iv) .ivv :=
  ⟨fun _ => rfl, fun _ f hf => by cases f <;> trivial⟩

theorem setsOnly_writeDin (v : BusWord) : SetsOnly (writeReg v · .din) .dv :=
  ⟨fun _ => rfl, fun _ f hf => by cases f <;> trivial⟩

section
variable {s t : State} (h : AgreeOnValid s t)
include h

/-- A register may become valid where both states give it the same content. -/
theorem AgreeOnValid.set {op : State → State} {g : Flag} (ho : SetsOnly op g) (hh : SameHost (op s) (op t))
    (hv : guarded (op s) g = guarded (op t) g) : AgreeOnValid (op s) (op t) := by
  refine h.update (by rw [ho.status, ho.status, h.status_eq]) hh fun f hf => ?_
  by_cases hg : f = g
  · exact .inl (hg ▸ hv)
  · refine .inr ⟨?_, ho.kept s f hg, ho.kept t f hg⟩
    rwa [State.flag, ho.status, getFlag_setFlag, decide_eq_false hg, Bool.false_or] at hf

theorem AgreeOnValid.complete (c : ErrCode) : AgreeOnValid (complete c s) (complete c t) :=
  h.keep (by simp [h.status_eq]) h.sameHost (fun f hf => by simp_all) rfl rfl

theorem AgreeOnValid.raiseError (c : ErrCode) : AgreeOnValid (raiseError c s) (raiseError c t) := h.complete c

theorem AgreeOnValid.clearOvr : AgreeOnValid (clearOvr s) (clearOvr t) :=
  h.keep (by simp [h.status_eq]) h.sameHost (fun f hf => by simp_all [State.flag]) rfl rfl

theorem AgreeOnValid.dequeue (rest : List HostOp) : AgreeOnValid (dequeue rest s) (dequeue rest t) := by
  obtain ⟨-, hturns, hdraws⟩ := h.sameHost
  exact h.keep h.status_eq ⟨rfl, by simp [hturns], hdraws⟩ (fun _ => id) rfl rfl

theorem AgreeOnValid.hostRead (a : RegAddr) : AgreeOnValid (hostRead a s) (hostRead a t) := by
  obtain ⟨hops, hturns, hdraws⟩ := h.sameHost
  exact h.keep h.status_eq ⟨hops, hturns, by simp [hdraws, h.underUpdate_eq]⟩ (fun _ => id) rfl rfl

theorem AgreeOnValid.assertReset : AgreeOnValid (assertReset s) (assertReset t) := by
  obtain ⟨hops, -, hdraws⟩ := h.sameHost
  exact h.update rfl ⟨hops, rfl, congrArg (· + 22) hdraws⟩ fun f hf => by
    simp [flag_of_status_zero (assertReset_status s)] at hf

theorem AgreeOnValid.pollStatus : AgreeOnValid (pollStatus s) (pollStatus t) := by
  obtain ⟨hops, hturns, hdraws⟩ := h.sameHost
  unfold Machine.pollStatus
  rw [← h.flag_eq]
  split
  · exact h.keep h.status_eq ⟨congrArg (HostOp.poll :: ·) hops, hturns, hdraws⟩ (fun _ => id) rfl rfl
  · exact h.hostRead _

/-- A host write gives a register the same content in both states. -/
theorem AgreeOnValid.writeReg (v : BusWord) (r : HostReg) : AgreeOnValid (writeReg v s r) (writeReg v t r) := by
  obtain ⟨hops, hturns, hdraws⟩ := h.sameHost
  cases r with
  | dout | sr | status | reserved => exact h
  | key => exact h.set (setsOnly_writeKey v) h.sameHost rfl
  | iv => exact h.set (setsOnly_writeIv v) h.sameHost rfl
  | din => exact h.set (setsOnly_writeDin v) h.sameHost rfl
  | cmd => exact h.set (setsOnly_accept v) ⟨hops, congrArg Config.schedule hdraws, congrArg (· + 1) hdraws⟩ rfl
  | rk i => exact h.set (setsOnly_writeRoundKey i v) h.sameHost (by simp [guarded, State.roundKey])

theorem AgreeOnValid.hostWrite (a : RegAddr) (v : BusWord) : AgreeOnValid (hostWrite a v s) (hostWrite a v t) := by
  cases hb : s.flag .busy with
  | true =>
    rw [hostWrite_busy a v s hb, hostWrite_busy a v t (h.flag_eq .busy ▸ hb)]
    exact h.set setsOnly_dropWrite h.sameHost rfl
  | false =>
    rw [hostWrite_idle a v s hb, hostWrite_idle a v t (h.flag_eq .busy ▸ hb)]
    exact h.writeReg v (regAt a)

theorem AgreeOnValid.hostTurn (op : HostOp) (rest : List HostOp) :
    AgreeOnValid (hostTurn op rest s) (hostTurn op rest t) := by
  rw [hostTurn_eq, hostTurn_eq]
  cases op with
  | read a => exact (h.dequeue rest).hostRead a
  | write a v => exact (h.dequeue rest).hostWrite a v
  | poll => exact (h.dequeue rest).pollStatus
  | reset => exact (h.dequeue rest).assertReset

/-! #### The commands read only what their Ready conditions make valid -/

theorem AgreeOnValid.loadRoundKeys (hk : s.flag .kv = true) : AgreeOnValid (loadRoundKeys s) (loadRoundKeys t) := by
  have hkey : s.key = t.key := h.guarded_eq hk
  refine h.update (by simp [h.status_eq]) h.sameHost fun f hf => ?_
  cases f with
  | rkv i => exact .inl (by simp [guarded, State.roundKey, hkey])
  | _ => exact .inr ⟨by simpa [State.flag, Flag.bit] using hf, rfl, rfl⟩

theorem AgreeOnValid.seedSr (hi : s.flag .ivv = true) : AgreeOnValid (seedSr s) (seedSr t) :=
  h.set setsOnly_seedSr h.sameHost (h.guarded_eq (f := .ivv) hi)

theorem AgreeOnValid.writeDout (v : Block) : AgreeOnValid (writeDout v s) (writeDout v t) :=
  h.set (setsOnly_writeDout v) h.sameHost rfl

theorem AgreeOnValid.feedSr (v : Block) : AgreeOnValid (feedSr v s) (feedSr v t) :=
  h.update h.status_eq h.sameHost fun f hf => by
    cases f with
    | srv => exact .inl rfl
    | _ => exact .inr ⟨hf, rfl, rfl⟩

/-- The effects of a ready command agree (10_state.md R43; 60_exceptions.md R202). -/
theorem AgreeOnValid.effects {i : Instr} (hr : ready s i = true) : AgreeOnValid (effects s i) (effects t i) := by
  cases i with
  | clr => exact h.clearOvr
  | keygen => exact h.loadRoundKeys hr
  | enc | dec =>
    obtain ⟨hd, hk⟩ : s.flag .dv = true ∧ s.allRkv = true := by simpa [ready] using hr
    have hdin : s.din = t.din := h.guarded_eq hd
    simpa only [Machine.effects, hdin, h.rk_eq hk] using h.writeDout _
  | cfbInit =>
    obtain ⟨hk, hi⟩ : s.flag .kv = true ∧ s.flag .ivv = true := by simpa [ready] using hr
    exact (h.loadRoundKeys hk).seedSr (by simpa [State.flag] using .inr hi)
  | cfbEnc n | cfbDec n =>
    obtain ⟨⟨hd, hs⟩, hk⟩ : (s.flag .dv = true ∧ s.flag .srv = true) ∧ s.allRkv = true := by
      simpa [ready] using hr
    have hdin : s.din = t.din := h.guarded_eq hd
    have hsr : s.sr = t.sr := h.guarded_eq hs
    simpa only [Machine.effects, hdin, hsr, h.rk_eq hk] using (h.writeDout _).feedSr _
  | reservedOp7 | reservedOp8F => exact h

theorem AgreeOnValid.exec {i : Instr} {s' : State} (hs : exec i s = .next s') :
    ∃ t', exec i t = .next t' ∧ AgreeOnValid s' t' := by
  rcases exec_cases hs with ⟨hi, rfl⟩ | ⟨hi, hr, rfl⟩ | ⟨hi, hr, rfl⟩
  · exact ⟨_, exec_reserved i t hi, h.raiseError _⟩
  · exact ⟨_, (exec_legal i t hi).trans (runWhen_notReady _ _ (h.ready_eq i ▸ hr)), h.raiseError _⟩
  · exact ⟨_, (exec_legal i t hi).trans (runWhen_ready _ _ (h.ready_eq i ▸ hr)), (h.effects hr).complete _⟩

theorem AgreeOnValid.perform {s' : State} (hb : s.flag .busy = true) (hs : perform s = .next s') :
    ∃ t', perform t = .next t' ∧ AgreeOnValid s' t' := by
  have hp := h.pend_eq hb
  rcases perform_cases hs with ⟨i, hd, hx⟩ | ⟨r, hd, rfl⟩
  · obtain ⟨t', ht, ha⟩ := h.exec hx
    exact ⟨t', by rw [Machine.perform, ← hp, hd]; exact ht, ha⟩
  · exact ⟨_, by rw [Machine.perform, ← hp, hd], h.raiseError _⟩

end

/-- Settles O39: agreeing states let the same agent move, a host operation gives a register the same content in both,
and a command that is ready reads valid registers only. -/
theorem unwrittenRegistersDoNotLeak : Obligations.UnwrittenRegistersDoNotLeak := by
  intro s t s' h hs
  rcases step_cases hs with ⟨ha, hp⟩ | ⟨op, rest, ha, rfl⟩ | ⟨ha, rfl⟩
  · obtain ⟨t', ht, hagree⟩ := h.perform (nextAgent_engine_busy ha) hp
    exact ⟨t', by rw [step, ← h.nextAgent_eq, ha]; exact ht, hagree⟩
  · exact ⟨_, step_host (h.nextAgent_eq ▸ ha), h.hostTurn op rest⟩
  · exact ⟨t, by rw [step, ← h.nextAgent_eq, ha], h⟩

end Sys2Proof.Machine
end

section
/-! PROOFS. The host's transactions on the register space (spec/20_memory.md R52 to R66). -/

namespace Sys2Proof.Machine

/-! ### The register map and the register contents -/

/-- The reserved register numbers (20_memory.md R51). -/
theorem regAt_reserved {a : RegAddr} (h7 : 7 ≤ a.toNat) (h15 : a.toNat ≤ 15) : regAt a = .reserved := by
  revert a; decide

/-- The content a register shows depends on the engine's registers alone. -/
theorem SameEngine.regValue_eq {s t : State} (h : SameEngine s t) (r : HostReg) : regValue t r = regValue s r := by
  obtain ⟨hkey, hiv, hdin, hdout, hsr, hrk, hst, -⟩ := h
  cases r <;> simp only [regValue, State.roundKey, hkey, hiv, hdin, hdout, hsr, hrk, hst]

/-- A host read changes no register of the engine (20_memory.md R57). -/
theorem sameEngine_hostRead (a : RegAddr) (s : State) : SameEngine s (hostRead a s) :=
  ⟨rfl, rfl, rfl, rfl, rfl, rfl, rfl, rfl⟩

/-! ### Host writes -/

/-- Setting one flag changes that flag alone (10_state.md R29). -/
theorem flagsFrom_setFlag (w : StatusWord) (f : Flag) : FlagsFrom w (setFlag w f) [f] [] := by
  refine ⟨reservedField_setFlag w f, fun g => ?_⟩
  by_cases hg : g = f <;> simp [hg]

theorem setFlag_setFlag_same (w : StatusWord) (f : Flag) : setFlag (setFlag w f) f = setFlag w f := by
  simp [setFlag, BitVec.or_assoc]

/-- Settles O20: the dropped write sets OVR alone. -/
theorem writeWhileBusyIsDropped : Obligations.WriteWhileBusyIsDropped :=
  fun s a v hb => ⟨_, flagsFrom_setFlag _ _, errField_setFlag _ _, hostWrite_busy a v s hb⟩

/-- Settles O21: of STATUS, each write sets its register's valid flag alone. -/
theorem hostWritesDataRegisters : Obligations.HostWritesDataRegisters :=
  fun s v hb =>
    ⟨⟨_, flagsFrom_setFlag _ _, errField_setFlag _ _, hostWrite_idle 0x00 v s hb⟩,
     ⟨_, flagsFrom_setFlag _ _, errField_setFlag _ _, hostWrite_idle 0x01 v s hb⟩,
     ⟨_, flagsFrom_setFlag _ _, errField_setFlag _ _, hostWrite_idle 0x02 v s hb⟩⟩

/-- Settles O22, at the number of RK[i] in the register map. -/
theorem hostWritesRoundKey : Obligations.HostWritesRoundKey := by
  intro s a v i hb ha
  have hw : hostWrite a v s = writeRoundKey i v s := by rw [hostWrite_idle a v s hb, regAt_rk ha, writeReg]
  exact ⟨_, flagsFrom_setFlag _ _, errField_setFlag _ _, hw⟩

/-- Settles O23: the accepted word is not looked at. -/
theorem cmdWriteAcceptsEveryWord : Obligations.CmdWriteAcceptsEveryWord :=
  fun s v hb => ⟨_, _, _, flagsFrom_setFlag _ _, errField_setFlag _ _, hostWrite_idle 0x05 v s hb⟩

/-- Settles O24: none of these numbers names a register that a write reaches. -/
theorem readOnlyAndReservedWritesAreIgnored : Obligations.ReadOnlyAndReservedWritesAreIgnored := by
  intro s a v hb ha
  rw [hostWrite_idle a v s hb]
  rcases ha with rfl | rfl | rfl | ⟨h7, h15⟩
  · rfl
  · rfl
  · rfl
  · rw [regAt_reserved h7 h15, writeReg]

/-- Only a CMD write changes BUSY (20_memory.md R53 to R56). -/
theorem flag_busy_writeReg (v : BusWord) (s : State) {r : HostReg} (hr : r ≠ .cmd) :
    (writeReg v s r).flag .busy = s.flag .busy := by
  cases r with
  | cmd => exact absurd rfl hr
  | dout | sr | status | reserved => rfl
  | key | iv | din | rk => simp [writeReg, State.flag]

/-- Only a CMD write draws free values, so every other write is idempotent (20_memory.md R66). -/
theorem writeReg_writeReg_same (v : BusWord) (s : State) {r : HostReg} (hr : r ≠ .cmd) :
    writeReg v (writeReg v s r) r = writeReg v s r := by
  cases r with
  | cmd => exact absurd rfl hr
  | dout | sr | status | reserved => rfl
  | key | iv | din | rk => simp [writeReg, writeRoundKey, setFlag_setFlag_same]

/-! ### Host reads -/

/-- With BUSY = 0 a read returns the register's content (20_memory.md R57). -/
theorem hostReadValue_idle (s : State) (a : RegAddr) (hb : s.flag .busy = false) :
    hostReadValue s a = regValue s (regAt a) :=
  hostReadValue_plain s a (underUpdate_idle s _ hb)

/-- A register outside W(op) reads exactly, busy or not (20_memory.md R57, R59). -/
theorem hostReadValue_outside {s : State} {a : RegAddr} {r : HostReg} (ha : regAt a = r)
    (hw : inWriteSet (opField s.pend) r = false) : hostReadValue s a = regValue s r := by
  subst ha
  exact hostReadValue_plain s a (by rw [underUpdate, ← opField, hw, Bool.and_false])

/-- While BUSY = 1 a register in W(op) reads as the next free value (20_memory.md R59). -/
theorem hostReadValue_inside {s : State} {a : RegAddr} {r : HostReg} (ha : regAt a = r) (hb : s.flag .busy = true)
    (hw : inWriteSet (opField s.pend) r = true) : hostReadValue s a = drawnFor s.draws r := by
  subst ha
  exact hostReadValue_underUpdate s a ((underUpdate_busy s _ hb).trans hw)

/-- While BUSY = 1 a read of a register in W(op) uses up one free value (20_memory.md R59). -/
theorem hostRead_draws_inside {s : State} {a : RegAddr} {r : HostReg} (ha : regAt a = r) (hb : s.flag .busy = true)
    (hw : inWriteSet (opField s.pend) r = true) : (hostRead a s).draws = s.draws + 1 := by
  rw [hostRead_draws, ha, underUpdate_busy s r hb, if_pos hw]

/-- A read of the result register `r` while BUSY = 1, where `ops` are the opcodes whose W(op) holds it; `put` stands
for any other content of the register. -/
theorem busyRead_of_writeSet {α : Type} {s : State} {a : RegAddr} {r : HostReg} {ops : List Nat} (put : α → State)
    (ha : regAt a = r) (hb : s.flag .busy = true)
    (hw : inWriteSet (opField s.pend) r = decide ((opField s.pend).toNat ∈ ops))
    (hput : ∀ x, (put x).status = s.status ∧ (put x).pend = s.pend ∧ (put x).draws = s.draws) :
    if (opField s.pend).toNat ∈ ops then
      (∀ x, hostReadValue (put x) a = drawnFor s.draws r) ∧ (hostRead a s).draws = s.draws + 1
    else hostReadValue s a = regValue s r := by
  split
  next hop =>
    have hin : inWriteSet (opField s.pend) r = true := hw.trans (decide_eq_true hop)
    refine ⟨fun x => ?_, hostRead_draws_inside ha hb hin⟩
    obtain ⟨hst, hpend, hdraws⟩ := hput x
    rw [← hdraws]
    exact hostReadValue_inside ha ((flag_of_status_eq hst _).trans hb) (hpend ▸ hin)
  next hop => exact hostReadValue_outside ha (hw.trans (decide_eq_false hop))

/-- Settles O25, by the register map. -/
theorem hostReadReturnsTheRegister : Obligations.HostReadReturnsTheRegister := by
  refine ⟨fun s a => sameEngine_hostRead a s, fun s hb => ?_⟩
  have read a : hostReadValue s a = regValue s (regAt a) := hostReadValue_idle s a hb
  refine ⟨read 0x00, read 0x01, read 0x02, read 0x03, read 0x04, read 0x05, read 0x06, ?_, ?_⟩
  · intro a h7 h15
    rw [read a, regAt_reserved h7 h15, regValue]
  · intro a i ha
    rw [read a, regAt_rk ha, regValue, State.roundKey]

/-- Settles O26: neither CMD nor a reserved address is in any W(op). -/
theorem cmdAndReservedAddressesReadZero : Obligations.CmdAndReservedAddressesReadZero := by
  rintro s a (rfl | ⟨h7, h15⟩)
  · exact hostReadValue_outside (r := .cmd) rfl rfl
  · exact hostReadValue_outside (regAt_reserved h7 h15) rfl

/-- Settles O27, by the opcodes whose W(op) holds each result register. -/
theorem busyReadIsFreeExactlyInTheWriteSet : Obligations.BusyReadIsFreeExactlyInTheWriteSet := by
  intro s hb
  obtain ⟨hdout, hsr, hrk⟩ := inWriteSet_results (opField s.pend)
  refine ⟨⟨?key, ?iv, ?din, ?status⟩, ?dout, ?sr, fun a i ha => ?rk⟩
  case key => exact hostReadValue_outside (r := .key) rfl rfl
  case iv => exact hostReadValue_outside (r := .iv) rfl rfl
  case din => exact hostReadValue_outside (r := .din) rfl rfl
  case status => exact hostReadValue_status s
  case dout => exact busyRead_of_writeSet (fun v => { s with dout := v }) rfl hb hdout fun _ => ⟨rfl, rfl, rfl⟩
  case sr => exact busyRead_of_writeSet (fun v => { s with sr := v }) rfl hb hsr fun _ => ⟨rfl, rfl, rfl⟩
  case rk =>
    exact busyRead_of_writeSet (fun v => { s with rk := v }) (regAt_rk ha) hb (hrk i) fun _ => ⟨rfl, rfl, rfl⟩

/-- Settles O28: a read keeps the engine's registers, and a second write of a register that is not CMD finds BUSY = 0
and changes nothing. -/
theorem readsAndDataWritesAreIdempotent : Obligations.ReadsAndDataWritesAreIdempotent := by
  refine ⟨fun s a => hostRead_hostReads a s, fun s a b hb => ?read, fun s a v hb ha => ?write⟩
  case read =>
    calc hostReadValue (hostRead a s) b
        = regValue (hostRead a s) (regAt b) := hostReadValue_idle _ b hb
      _ = regValue s (regAt b) := (sameEngine_hostRead a s).regValue_eq _
      _ = hostReadValue s b := (hostReadValue_idle s b hb).symm
  case write =>
    obtain ⟨-, -, -, hcmd⟩ := regAt_eq_iff a
    have hr : regAt a ≠ .cmd := fun h => by simp [hcmd.mp h] at ha
    rw [hostWrite_idle a v s hb, hostWrite_idle a v _ ((flag_busy_writeReg v s hr).trans hb),
      writeReg_writeReg_same v s hr]

end Sys2Proof.Machine
end

section
/-! PROOFS. The command word: the decoder and the encoder agree, and which words are legal (spec/30_encoding.md R80
to R88). -/

namespace Sys2Proof

/-! ### A word from its fields -/

/-- A word is its bits [31:4] and its opcode (30_encoding.md R80). -/
theorem upper_append_opField (w : CmdWord) : w.extractLsb' 4 28 ++ opField w = w := by
  apply BitVec.eq_of_getLsbD_eq
  intro k hk
  rw [getLsbD_upper_op]
  split
  next h => simp [opField, h]
  next h => simp [show k - 4 < 28 by omega, show 4 + (k - 4) = k by omega]

/-- A word with RES = 0 is its opcode and its NB field (30_encoding.md R80). -/
theorem cmdWord_opField_nbField {w : CmdWord} (hres : resField w = 0) : cmdWord (opField w) (nbField w) = w := by
  apply BitVec.eq_of_getLsbD_eq
  intro k hk
  rw [getLsbD_cmdWord]
  split
  next h => simp [opField, h]
  next h =>
    split
    next h6 => simp [nbField, h6, show 4 + (k - 4) = k by omega]
    next h6 =>
      have hbit : (resField w).getLsbD (k - 10) = w.getLsbD k := by
        simp [resField, show k - 10 < 22 by omega, show 10 + (k - 10) = k by omega]
      simp [← hbit, hres]

/-! ### The decoder and the encoder -/

/-- A word of OP 0x0 to 0x4 is accepted exactly with RES = 0 and NB = 0 (30_encoding.md R83, R86). -/
theorem decodeNoNb_eq_instr_iff {w : CmdWord} {i j : Instr} :
    decodeNoNb w i = .instr j ↔ resField w = 0 ∧ nbField w = 0 ∧ i = j := by
  unfold decodeNoNb
  split
  next hres => exact iff_of_false nofun fun h => hres h.1
  next hres => split <;> simp_all

/-- A word of OP 0x5 or 0x6 is accepted exactly with RES = 0 (30_encoding.md R82, R83). -/
theorem decodeNb_eq_instr_iff {w : CmdWord} {f : Nat → Instr} {j : Instr} :
    decodeNb w f = .instr j ↔ resField w = 0 ∧ f (validBits (nbField w)) = j := by
  unfold decodeNb
  split <;> simp_all

/-- The word of a well-formed instruction decodes to it. -/
theorem decode_encode {i : Instr} (h : i.wellFormed = true) : decode (encode i) = .instr i := by
  cases i with
  | clr | keygen | enc | dec | cfbInit => decide
  | cfbEnc n | cfbDec n =>
    have hn : 1 ≤ n ∧ n ≤ 64 := by simpa [Instr.wellFormed] using h
    simp [encode, decode, decodeNb, opField_cmdWord, nbField_cmdWord, resField_cmdWord, validBits_nbOfCount n hn]
  | reservedOp7 rest => simp [encode, decode, opField_append, upper_append]
  | reservedOp8F op rest =>
    have hop : 8 ≤ op.toNat := by simpa [Instr.wellFormed] using h
    rw [encode, decode, opField_append, upper_append]
    split
    iterate 8 omega
    rfl

/-- A word with RES = NB = 0 is the encoding of the command whose opcode it has. -/
theorem encode_of_decodeNoNb {w : CmdWord} {i j : Instr} (h : decodeNoNb w i = .instr j) {op : BitVec 4}
    (hop : opField w = op) (hi : i.wellFormed = true) (he : encode i = cmdWord op 0) :
    j.wellFormed = true ∧ encode j = w := by
  obtain ⟨hres, hnb, rfl⟩ := decodeNoNb_eq_instr_iff.mp h
  exact ⟨hi, by rw [he, ← hop, ← hnb, cmdWord_opField_nbField hres]⟩

/-- A word with RES = 0 is the encoding of the CFB step whose opcode and count it has. -/
theorem encode_of_decodeNb {w : CmdWord} {f : Nat → Instr} {j : Instr} (h : decodeNb w f = .instr j) {op : BitVec 4}
    (hop : opField w = op) (hf : ∀ n, 1 ≤ n ∧ n ≤ 64 → (f n).wellFormed = true)
    (he : ∀ n, encode (f n) = cmdWord op (nbOfCount n)) :
    j.wellFormed = true ∧ encode j = w := by
  obtain ⟨hres, rfl⟩ := decodeNb_eq_instr_iff.mp h
  exact ⟨hf _ (validBits_range _), by rw [he, nbOfCount_validBits, ← hop, cmdWord_opField_nbField hres]⟩

/-- A word that decodes to an instruction is its encoding, row by row of the opcode table (30_encoding.md R84). -/
theorem encode_of_decode {w : CmdWord} {i : Instr} (h : decode w = .instr i) :
    i.wellFormed = true ∧ encode i = w := by
  have op_of {n : Nat} (hn : (opField w).toNat = n) : opField w = BitVec.ofNat 4 n := by simp [← hn]
  unfold decode at h
  split at h
  iterate 5
    next hop => exact encode_of_decodeNoNb h (op_of hop) rfl rfl
  iterate 2
    next hop => exact encode_of_decodeNb h (op_of hop) (fun _ => decide_eq_true) fun _ => rfl
  next hop =>
    cases h
    have hw := upper_append_opField w
    rw [op_of hop] at hw
    exact ⟨rfl, hw⟩
  next h0 h1 h2 h3 h4 h5 h6 h7 =>
    cases h
    have hop : 8 ≤ (opField w).toNat := by
      simp only [imp_false] at h0 h1 h2 h3 h4 h5 h6 h7
      omega
    exact ⟨decide_eq_true hop, upper_append_opField w⟩

/-- Settles O1, constructor by constructor (`decode_encode`). -/
theorem decodeOfEncodeIsTheInstruction : Obligations.DecodeOfEncodeIsTheInstruction :=
  fun _ => decode_encode

/-- Settles O2, row by row of the opcode table (`encode_of_decode`). -/
theorem encodeOfDecodeIsTheWord : Obligations.EncodeOfDecodeIsTheWord :=
  fun _ _ => encode_of_decode

/-! ### Legal words -/

/-- `legal(w)` with the opcodes as numbers (30_encoding.md R85). -/
theorem legal_iff (w : CmdWord) : legal w = true ↔
    resField w = 0 ∧
      ((opField w).toNat ≤ 4 ∧ nbField w = 0 ∨ (opField w).toNat = 5 ∨ (opField w).toNat = 6) := by
  have ops : ∀ op : BitVec 4,
      (op == 0x0 || op == 0x1 || op == 0x2 || op == 0x3 || op == 0x4) = decide (op.toNat ≤ 4) ∧
      (op == 0x5 || op == 0x6) = decide (op.toNat = 5 ∨ op.toNat = 6) := by decide
  obtain ⟨hlow, hcfb⟩ := ops (opField w)
  rw [legal, hlow, hcfb]
  simp

/-- The word of a well-formed instruction is legal exactly when the instruction is no reserved opcode. -/
theorem legal_encode {i : Instr} (h : i.wellFormed = true) : legal (encode i) = !i.isReserved := by
  cases i with
  | clr => exact Laws.EncodedLegality.clr h
  | keygen => exact Laws.EncodedLegality.keygen h
  | enc => exact Laws.EncodedLegality.enc h
  | dec => exact Laws.EncodedLegality.dec h
  | cfbInit => exact Laws.EncodedLegality.cfbInit h
  | cfbEnc n => exact Laws.EncodedLegality.cfbEnc n h
  | cfbDec n => exact Laws.EncodedLegality.cfbDec n h
  | reservedOp7 rest => exact Laws.EncodedLegality.reservedOp7 rest h
  | reservedOp8F op rest => exact Laws.EncodedLegality.reservedOp8F op rest h

/-- The words that decode to an instruction are legal but for the reserved opcodes (30_encoding.md R85, R87). -/
theorem legal_of_decode {w : CmdWord} {i : Instr} (h : decode w = .instr i) : legal w = !i.isReserved := by
  obtain ⟨hwf, rfl⟩ := encode_of_decode h
  exact legal_encode hwf

/-- The decoder accepts every legal word (30_encoding.md R84, R85). -/
theorem decode_of_legal {w : CmdWord} (h : legal w = true) : ∃ i, decode w = .instr i := by
  obtain ⟨hres, hop⟩ := (legal_iff w).mp h
  rcases hop with ⟨hle, hnb⟩ | h5 | h6
  · unfold decode
    interval_cases (opField w).toNat <;> exact ⟨_, decodeNoNb_eq_instr_iff.mpr ⟨hres, hnb, rfl⟩⟩
  · exact ⟨_, by rw [decode, h5]; exact decodeNb_eq_instr_iff.mpr ⟨hres, rfl⟩⟩
  · exact ⟨_, by rw [decode, h6]; exact decodeNb_eq_instr_iff.mpr ⟨hres, rfl⟩⟩

/-- The legal words are those of the commands that are not reserved (30_encoding.md R85). -/
theorem legal_iff_decode (w : CmdWord) : legal w = true ↔ ∃ i, decode w = .instr i ∧ i.isReserved = false := by
  constructor
  · intro h
    obtain ⟨i, hi⟩ := decode_of_legal h
    exact ⟨i, hi, by simpa [h] using legal_of_decode hi⟩
  · rintro ⟨i, hi, hr⟩
    rw [legal_of_decode hi, hr, Bool.not_false]

/-- A word with RES = 0 as R85 writes it. -/
theorem cmdWord_eq_or (op : BitVec 4) (nb : BitVec 6) :
    cmdWord op nb = op.setWidth 32 ||| (BitVec.ofNat 32 nb.toNat <<< 4) := by
  apply BitVec.eq_of_getLsbD_eq
  intro k hk
  rw [getLsbD_cmdWord]
  by_cases h4 : k < 4
  · simp [h4, hk]
  · have hop : op.getLsbD k = false := BitVec.getLsbD_of_ge op k (by omega)
    have hnb : 6 ≤ k - 4 → nb.getLsbD (k - 4) = false := BitVec.getLsbD_of_ge nb (k - 4)
    by_cases h6 : k - 4 < 6
    · simp [h4, h6, hk, hop]
    · simp [h4, h6, hk, hop, hnb (by omega)]

/-- The encodings of a CFB command are its opcode under every value of NB (30_encoding.md R82, R85). -/
theorem exists_count_iff (op : BitVec 4) (w : CmdWord) :
    (∃ n, (1 ≤ n ∧ n ≤ 64) ∧ cmdWord op (nbOfCount n) = w) ↔
      ∃ k : Fin 64, w = op.setWidth 32 ||| (BitVec.ofNat 32 k.val <<< 4) := by
  constructor
  · rintro ⟨n, -, rfl⟩
    exact ⟨(nbOfCount n).toFin, cmdWord_eq_or op _⟩
  · rintro ⟨k, rfl⟩
    refine ⟨validBits (BitVec.ofFin k), validBits_range _, ?_⟩
    rw [nbOfCount_validBits]
    exact cmdWord_eq_or op (BitVec.ofFin k)

/-- The listed words are the encodings of the well-formed instructions that are not reserved (30_encoding.md R85). -/
theorem listed_iff_encode (w : CmdWord) :
    (w = 0 ∨ w = 1 ∨ w = 2 ∨ w = 3 ∨ w = 4 ∨
      ∃ k : Fin 64, w = 0x5#32 ||| (BitVec.ofNat 32 k.val <<< 4) ∨ w = 0x6#32 ||| (BitVec.ofNat 32 k.val <<< 4)) ↔
    ∃ i : Instr, i.wellFormed = true ∧ i.isReserved = false ∧ encode i = w := by
  have hEnc := exists_count_iff 0x5 w
  have hDec := exists_count_iff 0x6 w
  rw [exists_or]
  constructor
  · rintro (rfl | rfl | rfl | rfl | rfl | h | h)
    · exact ⟨.clr, rfl, rfl, rfl⟩
    · exact ⟨.keygen, rfl, rfl, rfl⟩
    · exact ⟨.enc, rfl, rfl, rfl⟩
    · exact ⟨.dec, rfl, rfl, rfl⟩
    · exact ⟨.cfbInit, rfl, rfl, rfl⟩
    · obtain ⟨n, hn, hw⟩ := hEnc.mpr h
      exact ⟨.cfbEnc n, decide_eq_true hn, rfl, hw⟩
    · obtain ⟨n, hn, hw⟩ := hDec.mpr h
      exact ⟨.cfbDec n, decide_eq_true hn, rfl, hw⟩
  · rintro ⟨i, hwf, hr, hw⟩
    cases i with
    | clr | keygen | enc | dec | cfbInit => subst hw; decide
    | cfbEnc n => exact .inr (.inr (.inr (.inr (.inr (.inl (hEnc.mp ⟨n, of_decide_eq_true hwf, hw⟩))))))
    | cfbDec n => exact .inr (.inr (.inr (.inr (.inr (.inr (hDec.mp ⟨n, of_decide_eq_true hwf, hw⟩))))))
    | reservedOp7 | reservedOp8F => cases hr

/-- Settles O3: a word decodes to an instruction exactly when it is the instruction's encoding. -/
theorem legalWordsAreTheListedOnes : Obligations.LegalWordsAreTheListedOnes := by
  refine ⟨fun w => ?_, legal_iff_decode, by decide +kernel⟩
  rw [legal_iff_decode, listed_iff_encode]
  constructor
  · rintro ⟨i, hi, hr⟩
    obtain ⟨hwf, hw⟩ := encode_of_decode hi
    exact ⟨i, hwf, hr, hw⟩
  · rintro ⟨i, hwf, hr, rfl⟩
    exact ⟨i, decode_encode hwf, hr⟩

/-- A nonzero NB on OP 0x0 to 0x4 is illegal (30_encoding.md R86). -/
theorem legal_eq_false_of_nb {w : CmdWord} (hop : (opField w).toNat ≤ 4) (hnb : nbField w ≠ 0) : legal w = false := by
  rw [← Bool.not_eq_true, legal_iff]
  rintro ⟨-, ⟨-, h⟩ | h | h⟩
  · exact hnb h
  · omega
  · omega

/-- A bit of [31:10] makes a word illegal (30_encoding.md R83). -/
theorem legal_eq_false_of_res {w : CmdWord} (hres : resField w ≠ 0) : legal w = false := by
  rw [← Bool.not_eq_true, legal_iff]
  exact fun h => hres h.1

/-- Settles O6, by evaluating the decoder on each word. -/
theorem exampleWordsDecode : Obligations.ExampleWordsDecode := by
  unfold Obligations.ExampleWordsDecode
  decide

namespace Machine

/-! ### Illegal words on the engine -/

/-- A step that is the Engine's performs the pending word. -/
theorem step_engine {s : State} (h : nextAgent s = .engine) : step s = perform s := by rw [step, h]

/-- Performing an illegal word raises ILLEGAL_COMMAND, whether the decoder rejects it or reads a reserved opcode
(42_commands.md R158). -/
theorem perform_of_illegal {s : State} (h : legal s.pend = false) :
    perform s = .next (raiseError .illegalCommand s) := by
  unfold perform
  split
  next i hi => exact exec_reserved i s (by simpa [h] using legal_of_decode hi)
  next => rfl

/-- A completion changes ERR and BUSY only (42_commands.md R150). -/
theorem completedFrom_complete (c : ErrCode) (s : State) :
    CompletedFrom s.status (complete c s).status c [] [] := by
  refine ⟨by simp, by simp, fun f => ?_⟩
  by_cases hf : f = .busy <;> simp [hf]

/-- An Engine step on an illegal word changes ERR and BUSY only (42_commands.md R158; 60_exceptions.md R201). -/
theorem step_of_illegal {s : State} (ha : nextAgent s = .engine) (h : legal s.pend = false) :
    ∃ st, CompletedFrom s.status st .illegalCommand [] [] ∧ step s = .next { s with status := st } :=
  ⟨_, completedFrom_complete .illegalCommand s, (step_engine ha).trans (perform_of_illegal h)⟩

/-- Settles O4: an instruction's encoding is the only word that decodes to it. -/
theorem nbOnOtherCommandsIsIllegal : Obligations.NbOnOtherCommandsIsIllegal := by
  refine ⟨fun w => legal_eq_false_of_nb, fun s ha hop hnb => step_of_illegal ha (legal_eq_false_of_nb hop hnb),
    fun w w' i hw hw' => ?_⟩
  obtain ⟨-, he⟩ := encode_of_decode hw
  obtain ⟨-, he'⟩ := encode_of_decode hw'
  exact he.symm.trans he'

/-- Settles O5: a legal word has RES = 0, and an illegal one only completes with its code. -/
theorem reservedBitsAreIllegal : Obligations.ReservedBitsAreIllegal :=
  ⟨fun _ => legal_eq_false_of_res, fun _ ha hres => step_of_illegal ha (legal_eq_false_of_res hres)⟩

end Machine
end Sys2Proof
end

section
/-! PROOFS. A POLL ends (spec/30_encoding.md R90; spec/70_reset_and_hazards.md R242). -/

namespace Sys2Proof.Machine

/-- A run that ends a POLL, within `bound` steps: BUSY = 0, and the Host has read that STATUS last. -/
def PollEnds (s : State) (rest : List HostOp) (bound : Nat) : Prop :=
  ∃ k t, k ≤ bound ∧ core.run k s = .next t ∧ t.flag .busy = false ∧ t.hostOps = rest ∧
    t.hostReads = s.hostReads ++ [(0x06, t.status.setWidth 64)]

/-- A step that leaves what the Host has read puts the POLL off by one step. -/
theorem PollEnds.of_step {s u : State} {rest : List HostOp} {bound : Nat} (hs : step s = .next u)
    (hreads : u.hostReads = s.hostReads) (h : PollEnds u rest bound) : PollEnds s rest (bound + 1) := by
  obtain ⟨k, t, hk, hrun, hb, hops, hr⟩ := h
  exact ⟨k + 1, t, by omega, (run_succ k s u hs).trans hrun, hb, hops, hreads ▸ hr⟩

/-- With BUSY = 0 the POLL's STATUS read is its last (30_encoding.md R90). -/
theorem pollEnds_idle {s : State} {rest : List HostOp} (hops : s.hostOps = .poll :: rest)
    (hb : s.flag .busy = false) : PollEnds s rest 1 := by
  have ha : nextAgent s = .host .poll rest := by simp [nextAgent, hops, hb]
  have hpoll : hostTurn .poll rest s = hostRead 0x06 (dequeue rest s) := by
    simp [hostTurn_eq, performOp, pollStatus, hb]
  refine ⟨1, hostRead 0x06 (dequeue rest s), le_rfl, run_one s _ (hpoll ▸ step_host ha), hb, rfl, ?_⟩
  rw [hostRead_hostReads, hostReadValue_status]
  rfl

/-- While BUSY = 1 a POLL's STATUS read uses up a host turn and leaves the POLL in the queue (30_encoding.md R90). -/
theorem step_poll_busy {s : State} {rest : List HostOp} (hops : s.hostOps = .poll :: rest)
    (hb : s.flag .busy = true) (ht : s.hostTurns ≠ 0) :
    step s = .next { s with hostTurns := s.hostTurns - 1 } := by
  have ha : nextAgent s = .host .poll rest := by simp [nextAgent, hops, ht]
  have hpoll : hostTurn .poll rest s = { s with hostTurns := s.hostTurns - 1 } := by
    rw [hostTurn_eq, performOp, pollStatus, if_pos (show (dequeue rest s).flag .busy = true from hb)]
    simp [dequeue, hops]
  rw [step_host ha, hpoll]

/-- Performing the pending word always answers a next state (70_reset_and_hazards.md R242). -/
theorem perform_next (s : State) : ∃ u, perform s = .next u := by
  unfold perform
  split
  next i _ => exact exec_next i s
  next => exact ⟨_, rfl⟩

/-- With no host turn left the Engine step comes next, and the POLL after it (70_reset_and_hazards.md R242). -/
theorem pollEnds_due {s : State} {rest : List HostOp} (hops : s.hostOps = .poll :: rest)
    (hb : s.flag .busy = true) (ht : s.hostTurns = 0) : PollEnds s rest 2 := by
  have ha : nextAgent s = .engine := by simp [nextAgent, hops, hb, ht]
  obtain ⟨u, hu⟩ := perform_next s
  obtain ⟨hops', hreads, -, -, hb'⟩ := perform_host hu
  exact .of_step ((step_engine ha).trans hu) hreads (pollEnds_idle (hops'.trans hops) hb')

/-- A POLL on a busy engine ends, by induction over the host turns left. -/
theorem pollEnds_busy (n : Nat) {s : State} {rest : List HostOp} (hops : s.hostOps = .poll :: rest)
    (hb : s.flag .busy = true) (ht : s.hostTurns = n) : PollEnds s rest (n + 2) := by
  induction n generalizing s with
  | zero => exact pollEnds_due hops hb ht
  | succ n ih =>
    exact .of_step (step_poll_busy hops hb (by omega)) rfl (ih hops hb (by simp [ht]))

/-- Settles O57: the host turns left bound the polls before the Engine step. -/
theorem pollTerminates : Obligations.PollTerminates := by
  intro s rest hops
  cases hb : s.flag .busy with
  | true => exact pollEnds_busy s.hostTurns hops hb rfl
  | false =>
    obtain ⟨k, t, hk, ht⟩ := pollEnds_idle hops hb
    exact ⟨k, t, by omega, ht⟩

end Sys2Proof.Machine
end

section
/-! PROOFS. Index tables that undo each other (spec/40_tables.md R102; spec/41_primitives.md R120). -/

namespace Sys2Proof.Machine

/-- The entry for an output bit is an input bit (40_tables.md R117). -/
theorem IndexTable.getD_lt {w n : Nat} (t : IndexTable w n) {i : Nat} (hi : i < n) : t.entries.getD i 0 < w := by
  have hl : i < t.entries.length := t.length_eq.symm ▸ hi
  rw [List.getD_eq_getElem _ _ hl]
  exact t.inRange _ (List.getElem_mem hl)

/-- Table `u` undoes table `t` when following an entry of `u` through `t` leads back to where it began. -/
theorem apply_apply_of_inverse {w n : Nat} (t : IndexTable w n) (u : IndexTable n w)
    (h : ∀ i : Fin w, t.entries.getD (u.entries.getD i 0) 0 = i) (v : BitVec w) : apply u (apply t v) = v := by
  apply BitVec.eq_of_getMsbD_eq
  intro i hi
  calc (apply u (apply t v)).getMsbD i
      = (apply t v).getMsbD (u.entries.getD i 0) := getMsbD_apply u _ i hi
    _ = v.getMsbD (t.entries.getD (u.entries.getD i 0) 0) := getMsbD_apply t v _ (u.getD_lt hi)
    _ = v.getMsbD i := congrArg v.getMsbD (h ⟨i, hi⟩)

/-- Entry `i` of IP_INV is the place of `i` in IP (40_tables.md R102). -/
theorem tableIP_tableIPInv (i : Fin 64) : tableIP.entries.getD (tableIPInv.entries.getD i 0) 0 = i := by
  decide +revert

/-- Entry `i` of IP is the place of `i` in IP_INV (40_tables.md R102). -/
theorem tableIPInv_tableIP (i : Fin 64) : tableIPInv.entries.getD (tableIP.entries.getD i 0) 0 = i := by
  decide +revert

/-- Settles O41: the tables are inverse to each other entry by entry, and so are their transforms. -/
theorem ipInvUndoesIp : Obligations.IpInvUndoesIp :=
  ⟨tableIPInv.length_eq, tableIPInv_tableIP, apply_apply_of_inverse tableIP tableIPInv tableIP_tableIPInv⟩

end Sys2Proof.Machine
end

section
/-! PROOFS. Rotation and padding in sequence and integer form (spec/41_primitives.md R121, R132), the key schedule by
cumulative rotation (R123), and the order of the round keys (R130). -/

namespace Sys2Proof.Machine

/-! ### Rotation of a half-key -/

/-- `rotl28` in integer form; `BitVec` keeps 28 bits (41_primitives.md R121). -/
theorem rotl28_eq_shifts (x : HalfKey) {s : Nat} (hs : s < 28) : rotl28 x s = (x <<< s) ||| (x >>> (28 - s)) := by
  rw [rotl28, BitVec.rotateLeft_def, Nat.mod_eq_of_lt hs]

/-- Settles O42: the sequence form, the integer form, and the fixed halves and examples by computation. -/
theorem rotl28IsCyclicLeftRotation : Obligations.Rotl28IsCyclicLeftRotation := by
  refine ⟨fun x s i _ hi => getMsbD_rotl28 x s i hi, fun x s hs => rotl28_eq_shifts x (by omega), ?_, by decide⟩
  rintro s (rfl | rfl) <;> decide

/-- Rotations in turn add up. -/
theorem getMsbD_foldl_rotl28 (ss : List Nat) (x : HalfKey) (i : Nat) (hi : i < 28) :
    (ss.foldl rotl28 x).getMsbD i = x.getMsbD ((i + ss.sum) % 28) := by
  induction ss generalizing x with
  | nil => simp [Nat.mod_eq_of_lt hi]
  | cons s ss ih =>
    rw [List.foldl_cons, ih, getMsbD_rotl28 x s _ (Nat.mod_lt _ (by decide)), Nat.mod_add_mod, List.sum_cons,
      Nat.add_assoc, Nat.add_comm ss.sum]

/-- Rotations that add up to the width leave a half-key as it was. -/
theorem foldl_rotl28_of_sum_eq (ss : List Nat) (h : ss.sum = 28) (x : HalfKey) : ss.foldl rotl28 x = x := by
  apply BitVec.eq_of_getMsbD_eq
  intro i hi
  rw [getMsbD_foldl_rotl28 ss x i hi, h, Nat.add_mod_right, Nat.mod_eq_of_lt hi]

/-! ### The key schedule -/

/-- Round key `i` is PC-2 of the halves rotated by the amounts up to round `i` (41_primitives.md R123). -/
theorem getElem_keyRounds (ss : List Nat) (c d : HalfKey) (i : Nat) (hi : i < (keyRounds ss c d).length) :
    (keyRounds ss c d)[i] =
      apply tablePC2 (joinKey ((ss.take (i + 1)).foldl rotl28 c) ((ss.take (i + 1)).foldl rotl28 d)) := by
  induction ss generalizing c d i with
  | nil => simp [keyRounds] at hi
  | cons s ss ih =>
    cases i with
    | zero => rfl
    | succ i => exact ih (rotl28 c s) (rotl28 d s) i (Nat.lt_of_succ_lt_succ hi)

/-- Settles O43: by induction over the rounds; the sixteen amounts add up to 28. -/
theorem roundKeysComeFromCumulativeRotation : Obligations.RoundKeysComeFromCumulativeRotation :=
  ⟨fun _ i => getElem_keyRounds shifts _ _ i _, foldl_rotl28_of_sum_eq shifts (by decide)⟩

/-- Settles O46, by running both directions. -/
theorem knownAnswerVector : Obligations.KnownAnswerVector := ⟨by decide +kernel, by decide +kernel⟩

/-! ### The order of the round keys -/

/-- Descending order is the ascending order of the reversed key file (41_primitives.md R130). -/
theorem keyOrder_decrypt (rk : RoundKeys) : keyOrder rk .decrypt = keyOrder rk.reverse .encrypt :=
  Vector.toList_reverse.symm

theorem getElem?_keyOrder_encrypt (rk : RoundKeys) (i : Nat) : (keyOrder rk .encrypt)[i]? = rk[i]? :=
  Vector.getElem?_toList

theorem getElem?_keyOrder_decrypt (rk : RoundKeys) {i : Nat} (hi : i < 16) :
    (keyOrder rk .decrypt)[i]? = rk[15 - i]? := by
  rw [keyOrder_decrypt, getElem?_keyOrder_encrypt]
  exact Vector.getElem?_reverse hi

/-- The direction of the transform enters through the key order alone. -/
theorem transform_congr_keyOrder (b : Block) {rk rk' : RoundKeys} {dir dir' : Direction}
    (h : keyOrder rk dir = keyOrder rk' dir') : transform b rk dir = transform b rk' dir' := by
  rw [transform, transform, h]

/-- Settles O47: the two directions differ in the key order, which reversal exchanges. -/
theorem decryptIsEncryptWithReversedKeys : Obligations.DecryptIsEncryptWithReversedKeys :=
  ⟨fun b rk => transform_congr_keyOrder b (keyOrder_decrypt rk),
    fun rk i hi => ⟨getElem?_keyOrder_encrypt rk i, getElem?_keyOrder_decrypt rk hi⟩⟩

/-! ### Padding -/

/-- The mask of `pad` written with `(1 << n) - 1`: the two differ in bits that the shift drops. -/
theorem padMask_eq {n : Nat} (hn : n ≤ 64) :
    BitVec.allOnes 64 <<< (64 - n) = BitVec.ofNat 64 (2 ^ n - 1) <<< (64 - n) := by
  apply BitVec.eq_of_getLsbD_eq
  intro i hi
  simp only [BitVec.getLsbD_shiftLeft, BitVec.getLsbD_allOnes, BitVec.getLsbD_ofNat, Nat.testBit_two_pow_sub_one]
  rw [decide_eq_true (show i - (64 - n) < 64 by omega)]
  by_cases h : i < 64 - n
  · simp [h]
  · simp [show i - (64 - n) < n by omega]

theorem pad_full (v : Block) : pad v 64 = v := by
  apply BitVec.eq_of_getMsbD_eq
  intro i hi
  rw [getMsbD_pad v 64 i hi, decide_eq_true hi, Bool.true_and]

/-- Settles O51: the sequence form bit by bit, the integer form by its mask. -/
theorem padKeepsTheFirstBits : Obligations.PadKeepsTheFirstBits := by
  refine ⟨fun v n i _ _ hi => ?_, fun v n _ hn => ?_, pad_full, by decide⟩
  · rw [getMsbD_pad v n i hi]
    split
    case isTrue h => simp [h]
    case isFalse h => simp [h]
  · rw [pad, padMask_eq hn]

end Sys2Proof.Machine
end

section
/-! PROOFS. The commands on the engine (spec/42_commands.md R150 to R158). -/

namespace Sys2Proof.Machine

/-! ### A step always has an outcome -/

/-- Settles O8, agent by agent; an Engine step is a completion. -/
theorem everyStepAnswersANextState : Obligations.EveryStepAnswersANextState := by
  intro s
  cases ha : nextAgent s with
  | engine =>
    obtain ⟨t, ht⟩ := perform_next s
    obtain ⟨-, -, -, -, hb⟩ := perform_host ht
    exact ⟨t, (step_engine ha).trans ht, fun _ => hb⟩
  | host op rest => exact ⟨_, step_host ha, nofun⟩
  | nobody => exact ⟨s, by rw [step, ha], nofun⟩

/-! ### A ready command -/

/-- A ready command succeeds with its effects (42_commands.md R150). -/
theorem exec_of_ready {i : Instr} {s : State} (hr : ready s i = true) :
    exec i s = .next (complete .none (effects s i)) := by
  cases hl : i.isReserved with
  | true => simp [ready_reserved s hl] at hr
  | false => rw [exec_legal i s hl, runWhen_ready _ _ hr]

/-- A successful command's STATUS, where `set` are the flags it sets and `cleared` the one that CLR clears. -/
theorem completedFrom_effects {i : Instr} {set cleared : List Flag} (s : State)
    (hset : ∀ f, setsFlag i f = true ↔ f ∈ set) (hclr : ∀ f, i = .clr ∧ f = .ovr ↔ f ∈ cleared) :
    CompletedFrom s.status (complete .none (effects s i)).status .none set cleared := by
  refine ⟨by simp, by simp, fun f => ?_⟩
  have hsets : setsFlag i f = decide (f ∈ set) := by rw [Bool.eq_iff_iff, hset, decide_eq_true_iff]
  have hclears : (decide (i = .clr) && decide (f = .ovr)) = decide (f ∈ cleared) := by
    rw [← Bool.decide_and, decide_eq_decide, hclr]
  have hf : getFlag (complete .none (effects s i)).status f =
      (!decide (f = .busy) && (decide (f ∈ set) || (!decide (f ∈ cleared) && getFlag s.status f))) := by
    rw [← hsets, ← hclears]
    exact (flag_complete .none _ f).trans (congrArg _ (flag_effects i s f))
  have hbusy : .busy ∉ set := (hset .busy).not.mp (by cases i <;> simp [setsFlag, Flag.bit])
  rw [hf]
  by_cases hs : f ∈ set
  · have hne : f ≠ .busy := fun h => hbusy (h ▸ hs)
    simp [hs, hne]
  · by_cases hc : f = .busy ∨ f ∈ cleared
    · rw [if_neg hs, if_pos (List.mem_cons.mpr hc)]
      rcases hc with h | h <;> simp [h, hs]
    · obtain ⟨hne, hnc⟩ := not_or.mp hc
      simp [hs, hne, hnc]

/-- The listed RKV flags are those of STATUS[31:16] (10_state.md R41). -/
theorem mem_allRkv_iff (f : Flag) : f ∈ Flag.allRkv ↔ 16 ≤ f.bit := by
  cases f with
  | rkv i => exact iff_of_true (by decide +revert) (Nat.le_add_right 16 i)
  | _ => decide

/-- Settles O9: CLR is always ready. -/
theorem clrClearsErrAndOvr : Obligations.ClrClearsErrAndOvr :=
  fun s => ⟨_, completedFrom_effects (i := .clr) s (by simp [setsFlag]) (by simp), exec_of_ready rfl⟩

/-- Settles O10. -/
theorem keygenWritesTheKeySchedule : Obligations.KeygenWritesTheKeySchedule :=
  fun s hk => ⟨_, completedFrom_effects (i := .keygen) s (by simp [setsFlag, mem_allRkv_iff]) (by simp),
    exec_of_ready hk⟩

/-- Settles O11. -/
theorem encWritesTheEncryptedBlock : Obligations.EncWritesTheEncryptedBlock :=
  fun s hd hk => ⟨_, completedFrom_effects (i := .enc) s (by simp [setsFlag]) (by simp),
    exec_of_ready (by simp [ready, hd, hk])⟩

/-- Settles O12. -/
theorem decWritesTheDecryptedBlock : Obligations.DecWritesTheDecryptedBlock :=
  fun s hd hk => ⟨_, completedFrom_effects (i := .dec) s (by simp [setsFlag]) (by simp),
    exec_of_ready (by simp [ready, hd, hk])⟩

/-- Settles O13. -/
theorem cfbInitDerivesKeysAndSeedsSr : Obligations.CfbInitDerivesKeysAndSeedsSr :=
  fun s hk hi => ⟨_, completedFrom_effects (i := .cfbInit) s (by simp [setsFlag, mem_allRkv_iff]) (by simp),
    exec_of_ready (by simp [ready, hk, hi])⟩

/-- Settles O14. -/
theorem cfbEncWritesTheCiphertextBlock : Obligations.CfbEncWritesTheCiphertextBlock :=
  fun s n hd hs hk => ⟨_, completedFrom_effects (i := .cfbEnc n) s (by simp [setsFlag]) (by simp),
    exec_of_ready (by simp [ready, hd, hs, hk])⟩

/-- Settles O15. -/
theorem cfbDecWritesThePlaintextBlock : Obligations.CfbDecWritesThePlaintextBlock :=
  fun s n hd hs hk => ⟨_, completedFrom_effects (i := .cfbDec n) s (by simp [setsFlag]) (by simp),
    exec_of_ready (by simp [ready, hd, hs, hk])⟩

/-- Settles O16: a reserved opcode has no Ready condition, and every illegal word completes as it does. -/
theorem illegalWordsCompleteWithIllegalCommand : Obligations.IllegalWordsCompleteWithIllegalCommand :=
  ⟨fun s _ => ⟨_, completedFrom_complete .illegalCommand s, exec_reserved _ s rfl⟩,
    fun s _ _ => ⟨_, completedFrom_complete .illegalCommand s, exec_reserved _ s rfl⟩,
    fun _ => step_of_illegal⟩

/-! ### A command and the command that undoes it -/

/-- Settles O55: both commands use the keystream of the same SR, so it cancels. -/
theorem cfbDecUndoesCfbEnc : Obligations.CfbDecUndoesCfbEnc := by
  intro s t n hd hs hk h
  have hr : ready s (.cfbEnc n) = true := by simp [ready, hd, hs, hk]
  cases (exec_of_ready hr).symm.trans h
  refine ⟨rfl, _, exec_of_ready hr, ?dout, pad_full _⟩
  case dout =>
    let o := chainKey s.rk s.sr
    calc pad (pad s.din n ^^^ o) 64 ^^^ o
        = pad s.din n ^^^ o ^^^ o := by rw [pad_full]
      _ = pad s.din n := by rw [BitVec.xor_assoc, BitVec.xor_self, BitVec.xor_zero]

/-- A round with the same key undoes a round whose halves have been exchanged (41_primitives.md R129). -/
theorem feistelRound_swap (h : HalfBlock × HalfBlock) (k : RoundKey) :
    feistelRound (feistelRound h k).swap k = h.swap := by
  simp only [feistelRound, Prod.fst_swap, Prod.snd_swap, BitVec.xor_assoc, BitVec.xor_self, BitVec.xor_zero]
  rfl

/-- Rounds with the keys in reverse undo rounds whose halves have been exchanged. -/
theorem foldl_feistelRound_reverse (ks : List RoundKey) (h : HalfBlock × HalfBlock) :
    ks.reverse.foldl feistelRound (ks.foldl feistelRound h).swap = h.swap := by
  induction ks generalizing h with
  | nil => rfl
  | cons k ks ih =>
    rw [List.foldl_cons, List.reverse_cons, List.foldl_concat, ih]
    exact feistelRound_swap h k

/-- Decryption undoes encryption for every round-key file (41_primitives.md section 6 (a)): IP meets IP⁻¹, and the
rounds run back. -/
theorem transform_decrypt_encrypt (b : Block) (rk : RoundKeys) :
    transform (transform b rk .encrypt) rk .decrypt = b := by
  let p := apply tableIP b
  have hback := foldl_feistelRound_reverse rk.toList (seqSlice p 0 32, seqSlice p 32 32)
  unfold transform
  simp only [keyOrder, apply_apply_of_inverse _ _ tableIPInv_tableIP, seqSlice_joinBlock_left, seqSlice_joinBlock_right]
  rw [← Prod.swap, hback, Prod.fst_swap, Prod.snd_swap, joinBlock_seqSlice]
  exact apply_apply_of_inverse _ _ tableIP_tableIPInv b

/-- Settles O56: ENC leaves RK and the flags of its inputs, so DEC runs on the same round keys. -/
theorem decUndoesEnc : Obligations.DecUndoesEnc := by
  intro s t hd hk h
  cases (exec_of_ready (show ready s .enc = true by simp [ready, hd, hk])).symm.trans h
  have hkept : ∀ f, f ≠ .busy → s.flag f = true → (complete .none (effects s .enc)).flag f = true :=
    fun f hb hf => by simp [flag_effects, hb, hf]
  have hk' : (complete .none (effects s .enc)).allRkv = true :=
    (allRkv_iff _).mpr fun j => hkept _ (by simp) ((allRkv_iff s).mp hk j)
  refine ⟨_, exec_of_ready (i := .dec) ?ready, transform_decrypt_encrypt s.din s.rk, rfl⟩
  exact Bool.and_eq_true_iff.mpr ⟨hkept .dv (by simp) hd, hk'⟩

end Sys2Proof.Machine
end

section
/-! PROOFS. The host sequence of a CFB message (spec/43_cfb_message.md R184; spec/70_reset_and_hazards.md R246): what
the Host's operations do to an idle engine, one at a time, and then segment by segment. -/

namespace Sys2Proof.Machine

/-! ### Runs, by what the Host reads from DOUT -/

/-- A run leads from `s` to `t`, and in it the Host reads `vs` from DOUT, in this order. -/
def RunReads (s t : State) (vs : List BusWord) : Prop :=
  ∃ k rs, core.run k s = .next t ∧ t.hostReads = s.hostReads ++ rs ∧
    (rs.filter fun r => r.1 == addrOf .dout).map Prod.snd = vs

theorem RunReads.refl (s : State) : RunReads s s [] := ⟨0, [], rfl, by simp, rfl⟩

theorem RunReads.trans {s t u : State} {vs ws : List BusWord} (h : RunReads s t vs) (h' : RunReads t u ws) :
    RunReads s u (vs ++ ws) := by
  obtain ⟨k, rs, hrun, hreads, rfl⟩ := h
  obtain ⟨k', rs', hrun', hreads', rfl⟩ := h'
  exact ⟨k + k', rs ++ rs', (run_add k k' s t hrun).trans hrun', by rw [hreads', hreads, List.append_assoc], by simp⟩

/-- A step in which the Host reads nothing. -/
theorem RunReads.of_step {s t : State} (h : step s = .next t) (hreads : t.hostReads = s.hostReads) :
    RunReads s t [] :=
  ⟨1, [], run_one s t h, by simp [hreads], rfl⟩

/-- The values read from DOUT are all that `readsOf` finds. -/
theorem RunReads.readsOf_dout {s t : State} {vs : List BusWord} (h : RunReads s t vs) :
    readsOf (addrOf .dout) s.hostReads.length t = vs := by
  obtain ⟨k, rs, -, hreads, rfl⟩ := h
  rw [readsOf, hreads, List.drop_left]

/-! ### One host operation on an idle engine -/

section
variable {s : State} {rest : List HostOp} (hb : s.flag .busy = false)
include hb

/-- While BUSY = 0 the Host's next operation is performed at once. -/
theorem step_host_idle {op : HostOp} (hops : s.hostOps = op :: rest) :
    step s = .next (performOp op (dequeue rest s)) :=
  step_host (by simp [nextAgent, hops, hb])

/-- While BUSY = 0 a write reaches the register that its number names (20_memory.md R53 to R56). -/
theorem runReads_write {a : RegAddr} {v : BusWord} (hops : s.hostOps = .write a v :: rest) :
    RunReads s (writeReg v (dequeue rest s) (regAt a)) [] := by
  refine .of_step ?_ (by cases regAt a <;> rfl)
  rw [step_host_idle hb hops, performOp, hostWrite_idle a v (dequeue rest s) hb]

/-- While BUSY = 0 a read of DOUT returns its content (20_memory.md R57). -/
theorem runReads_read_dout (hops : s.hostOps = .read (addrOf .dout) :: rest) :
    RunReads s (hostRead (addrOf .dout) (dequeue rest s)) [s.dout] := by
  refine ⟨1, [(addrOf .dout, s.dout)], run_one _ _ (step_host_idle hb hops), ?_, rfl⟩
  rw [hostRead_hostReads, hostReadValue_idle (dequeue rest s) _ hb]
  rfl

/-- While BUSY = 0 a POLL is one read of STATUS (30_encoding.md R90). -/
theorem runReads_poll (hops : s.hostOps = .poll :: rest) : RunReads s (hostRead 0x06 (dequeue rest s)) [] := by
  refine ⟨1, [(0x06, hostReadValue (dequeue rest s) 0x06)], run_one _ _ ?_, rfl, rfl⟩
  rw [step_host_idle hb hops, performOp, pollStatus, dequeue_flag, hb, if_neg Bool.false_ne_true]

end

/-- A POLL while BUSY = 1 uses up the host turns that are left, by induction over their number. -/
theorem runReads_turns {s : State} {rest : List HostOp} (hops : s.hostOps = .poll :: rest) (hb : s.flag .busy = true) :
    RunReads s { s with hostTurns := 0 } [] := by
  induction hn : s.hostTurns generalizing s with
  | zero => rw [← hn]; exact .refl s
  | succ n ih =>
    have hstep := step_poll_busy hops hb (by omega)
    exact (RunReads.of_step hstep rfl).trans (ih hops hb (by simp [hn]))

/-! ### ISSUE -/

/-- The engine once the command `i` has been accepted and no host turn is left before its Engine step; the POLL of the
`ISSUE` is next in the queue. -/
def due (i : Instr) (rest : List HostOp) (s : State) : State :=
  { accept ((encode i).setWidth 64) (dequeue (.poll :: rest) s) with hostTurns := 0 }

theorem due_pend (i : Instr) (rest : List HostOp) (s : State) : (due i rest s).pend = encode i := by
  have hw : (due i rest s).pend = ((encode i).setWidth 64).setWidth 32 := rfl
  rw [hw, BitVec.setWidth_setWidth_of_le _ (by decide), BitVec.setWidth_eq]

/-- Accepting a command sets BUSY alone. -/
theorem due_flag (i : Instr) (rest : List HostOp) (s : State) (f : Flag) :
    (due i rest s).flag f = (decide (f = .busy) || s.flag f) :=
  getFlag_setFlag s.status .busy f

/-- The Ready condition does not look at BUSY. -/
theorem ready_due (i : Instr) (rest : List HostOp) (s : State) : ready (due i rest s) i = ready s i := by
  have hr : (due i rest s).allRkv = s.allRkv := by
    rw [Bool.eq_iff_iff, allRkv_iff, allRkv_iff]
    simp [due_flag]
  cases i <;> simp [ready, due_flag, hr]

theorem nextAgent_due (i : Instr) (rest : List HostOp) (s : State) : nextAgent (due i rest s) = .engine := by
  rw [nextAgent, due_flag]
  rfl

theorem perform_due {i : Instr} (rest : List HostOp) {s : State} (hwf : i.wellFormed = true) (hr : ready s i = true) :
    perform (due i rest s) = .next (complete .none (effects (due i rest s) i)) := by
  rw [perform, due_pend, decode_encode hwf]
  exact exec_of_ready ((ready_due i rest s).trans hr)

/-- What a successful command leaves of the registers that the Host and the commands after it see: those of its
effects, with ERR = 0 and BUSY = 0 (42_commands.md R150). -/
structure Issued (i : Instr) (s t : State) : Prop where
  din : t.din = s.din
  dout : t.dout = (effects s i).dout
  sr : t.sr = (effects s i).sr
  rk : t.rk = (effects s i).rk
  flag : ∀ f, f ≠ .busy → t.flag f = (effects s i).flag f
  busy : t.flag .busy = false
  err : t.err = 0

/-- The effects do not look at what accepting the command has changed. -/
theorem issued_due (i : Instr) (rest : List HostOp) (s : State) :
    Issued i s (complete .none (effects (due i rest s) i)) where
  din := effects_din i _
  dout := by cases i <;> rfl
  sr := by cases i <;> rfl
  rk := by cases i <;> rfl
  flag f hf := by simp [flag_effects, due_flag, hf]
  busy := by simp
  err := by simp [ErrCode.code]

/-- `ISSUE` of a ready command runs it, whatever the schedule (30_encoding.md R90; 70_reset_and_hazards.md R242). -/
theorem runReads_issue {s : State} {i : Instr} {rest : List HostOp} (hb : s.flag .busy = false)
    (hops : s.hostOps = issueOps i ++ rest) (hwf : i.wellFormed = true) (hr : ready s i = true) :
    ∃ t, RunReads s t [] ∧ t.hostOps = rest ∧ Issued i s t := by
  have hdone := perform_due rest hwf hr
  obtain ⟨hopsu, hreads, -, -, hbu⟩ := perform_host hdone
  have haccept : RunReads s (due i rest s) [] :=
    (runReads_write hb hops).trans (runReads_turns rfl (getFlag_setFlag s.status .busy .busy))
  have hengine := RunReads.of_step ((step_engine (nextAgent_due i rest s)).trans hdone) hreads
  exact ⟨_, (haccept.trans hengine).trans (runReads_poll hbu hopsu), rfl, { issued_due i rest s with }⟩

/-! ### The chain between the segments of a message -/

/-- Between two segments the engine is idle and without error, and holds the round keys and the chain value
(43_cfb_message.md R182, R183). -/
structure ChainAt (rk : RoundKeys) (sr : Block) (s : State) : Prop where
  busy : s.flag .busy = false
  err : s.err = 0
  srv : s.flag .srv = true
  rkv : s.allRkv = true
  sr_eq : s.sr = sr
  rk_eq : s.rk = rk

/-- `WR KEY; WR IV; ISSUE CFB_INIT` starts the chain of KEY at IV (42_commands.md R155; 43_cfb_message.md R184). -/
theorem runReads_cfbStart {s : State} {key iv : Block} {rest : List HostOp} (hb : s.flag .busy = false)
    (hops : s.hostOps = cfbStartOps key iv ++ rest) :
    ∃ t, RunReads s t [] ∧ t.hostOps = rest ∧ ChainAt (keySchedule key) iv t ∧ t.din = s.din ∧ t.dout = s.dout := by
  let ops := issueOps .cfbInit ++ rest
  let s₁ := writeReg key (dequeue (.write (addrOf .iv) iv :: ops) s) .key
  let s₂ := writeReg iv (dequeue ops s₁) .iv
  have hb₁ : s₁.flag .busy = false := (flag_busy_writeReg key _ (by decide)).trans hb
  have hb₂ : s₂.flag .busy = false := (flag_busy_writeReg iv _ (by decide)).trans hb₁
  have hr : ready s₂ .cfbInit = true := by simp [ready, s₂, s₁, writeReg, State.flag]
  obtain ⟨t, hrun, hrest, ht⟩ := runReads_issue (rest := rest) hb₂ rfl rfl hr
  have hwrites : RunReads s s₂ [] := (runReads_write hb hops).trans (runReads_write hb₁ rfl)
  refine ⟨t, hwrites.trans hrun, hrest, ⟨ht.busy, ht.err, ?srv, ?rkv, ht.sr, ht.rk⟩, ht.din, ht.dout⟩
  case srv => simp [ht.flag, flag_effects, setsFlag]
  case rkv => simp [allRkv_iff, ht.flag, flag_effects, setsFlag, Flag.bit]

/-- Settles O60: a saved SR in IV is where the chain starts. -/
theorem cfbInitRestoresASavedChain : Obligations.CfbInitRestoresASavedChain := by
  intro s key saved hb hops
  obtain ⟨t, ⟨k, rs, hrun, -⟩, hrest, hc, hdin, hdout⟩ :=
    runReads_cfbStart (rest := []) hb (hops.trans (List.append_nil _).symm)
  exact ⟨k, t, hrun, hrest, hc.busy, hc.err, hc.sr_eq, hc.rk_eq, hc.srv, hc.rkv, hdin, hdout⟩

/-! ### One segment, in either direction -/

/-- The command of a segment of `n` bits (42_commands.md R156, R157). -/
def cfbCommand : Direction → Nat → Instr
  | .encrypt => .cfbEnc
  | .decrypt => .cfbDec

/-- What is fed back after the segment `p` under the keystream block `o`: the ciphertext, which is the result of an
encryption and the segment of a decryption (43_cfb_message.md R182, R183). -/
def cfbFeedback : Direction → Block → Block → Block
  | .encrypt, p, o => p ^^^ o
  | .decrypt, p, _ => p

/-- The result blocks of a chain in either direction (43_cfb_message.md R182, R183). -/
def cfbChain : Direction → RoundKeys → Block → List Block → List Block
  | .encrypt => encryptChain
  | .decrypt => decryptChain

theorem cfbChain_nil (dir : Direction) (rk : RoundKeys) (sr : Block) : cfbChain dir rk sr [] = [] := by
  cases dir <;> rfl

theorem cfbChain_cons (dir : Direction) (rk : RoundKeys) (sr p : Block) (ps : List Block) :
    cfbChain dir rk sr (p :: ps) =
      (p ^^^ chainKey rk sr) :: cfbChain dir rk (cfbFeedback dir p (chainKey rk sr)) ps := by
  cases dir <;> rfl

/-- A CFB step computes one link of the chain from SR and the padded DIN (42_commands.md R156, R157). -/
theorem effects_cfbCommand (dir : Direction) (n : Nat) (s : State) :
    (effects s (cfbCommand dir n)).dout = pad s.din n ^^^ chainKey s.rk s.sr ∧
    (effects s (cfbCommand dir n)).sr = cfbFeedback dir (pad s.din n) (chainKey s.rk s.sr) ∧
    (effects s (cfbCommand dir n)).rk = s.rk := by
  cases dir <;> exact ⟨rfl, rfl, rfl⟩

theorem flag_effects_of_flag {i : Instr} {s : State} {f : Flag} (hf : f ≠ .ovr) (hs : s.flag f = true) :
    (effects s i).flag f = true := by
  simp [flag_effects, hf, hs]

/-- A DIN write leaves the chain where it is. -/
theorem ChainAt.write_din {rk : RoundKeys} {sr : Block} {s : State} (h : ChainAt rk sr s) (d : Block)
    (rest : List HostOp) : ChainAt rk sr (writeReg d (dequeue rest s) .din) where
  busy := (flag_busy_writeReg d _ (by decide)).trans h.busy
  err := (err_writeReg d _ .din).trans h.err
  srv := flag_writeReg_of_flag d .din h.srv
  rkv := (allRkv_iff _).mpr fun i => flag_writeReg_of_flag d .din ((allRkv_iff s).mp h.rkv i)
  sr_eq := h.sr_eq
  rk_eq := h.rk_eq

/-- A CFB step of `n` bits goes one link along the chain. -/
theorem ChainAt.issued {rk : RoundKeys} {sr : Block} {s t : State} {dir : Direction} {n : Nat} (h : ChainAt rk sr s)
    (ht : Issued (cfbCommand dir n) s t) : ChainAt rk (cfbFeedback dir (pad s.din n) (chainKey rk sr)) t where
  busy := ht.busy
  err := ht.err
  srv := (ht.flag _ (by decide)).trans (flag_effects_of_flag (by decide) h.srv)
  rkv := (allRkv_iff t).mpr fun i =>
    (ht.flag _ (by simp)).trans (flag_effects_of_flag (by simp) ((allRkv_iff s).mp h.rkv i))
  sr_eq := by
    obtain ⟨-, hsr, -⟩ := effects_cfbCommand dir n s
    rw [ht.sr, hsr, h.rk_eq, h.sr_eq]
  rk_eq := by
    obtain ⟨-, -, hrk⟩ := effects_cfbCommand dir n s
    rw [ht.rk, hrk, h.rk_eq]

/-- `WR DIN; ISSUE; RD DOUT` for one segment: the Host reads the result block, and the chain goes one link on. -/
theorem runReads_block {rk : RoundKeys} {sr : Block} {s : State} {rest : List HostOp} {dir : Direction} {n : Nat}
    (d : Block) (hn : 1 ≤ n ∧ n ≤ 64) (hc : ChainAt rk sr s)
    (hops : s.hostOps = blockOps (cfbCommand dir n) d ++ rest) :
    ∃ t, RunReads s t [pad d n ^^^ chainKey rk sr] ∧ t.hostOps = rest ∧
      ChainAt rk (cfbFeedback dir (pad d n) (chainKey rk sr)) t := by
  let ops := .read (addrOf .dout) :: rest
  let s₁ := writeReg d (dequeue (issueOps (cfbCommand dir n) ++ ops) s) .din
  have hc₁ : ChainAt rk sr s₁ := hc.write_din d _
  have hwf : (cfbCommand dir n).wellFormed = true := by cases dir <;> exact decide_eq_true hn
  have hr : ready s₁ (cfbCommand dir n) = true := by
    have hd : s₁.flag .dv = true := by simp [s₁, writeReg, State.flag]
    cases dir <;> simp [cfbCommand, ready, hd, hc₁.srv, hc₁.rkv]
  obtain ⟨t, hrun, hrest, ht⟩ := runReads_issue (rest := ops) hc₁.busy rfl hwf hr
  have hdout : t.dout = pad d n ^^^ chainKey rk sr := by
    obtain ⟨hd, -, -⟩ := effects_cfbCommand dir n s₁
    rw [ht.dout, hd, hc₁.rk_eq, hc₁.sr_eq]
    rfl
  have hwrite : RunReads s s₁ [] := runReads_write hc.busy hops
  have hread := runReads_read_dout ht.busy hrest
  rw [hdout] at hread
  exact ⟨_, (hwrite.trans hrun).trans hread, rfl, { hc₁.issued ht with }⟩

/-! ### The whole message -/

/-- A segment of a message has 1 to 64 bits (43_cfb_message.md R180). -/
theorem segLens_range {n k : Nat} (h : k ∈ segLens n) : 1 ≤ k ∧ k ≤ 64 := by
  obtain ⟨j, hj, rfl⟩ := List.mem_map.mp h
  rw [List.mem_range] at hj
  unfold segLen segCount at *
  split <;> omega

/-- The segments one after the other, by induction over them. -/
theorem runReads_segments {rk : RoundKeys} (dir : Direction) {segs : List (Block × Nat)} {sr : Block} {s : State}
    (hlen : ∀ d ∈ segs, 1 ≤ d.2 ∧ d.2 ≤ 64) (hc : ChainAt rk sr s)
    (hops : s.hostOps = segs.flatMap fun d => blockOps (cfbCommand dir d.2) d.1) :
    ∃ t sr', RunReads s t (cfbChain dir rk sr (segs.map fun d => pad d.1 d.2)) ∧ t.hostOps = [] ∧
      ChainAt rk sr' t := by
  induction segs generalizing sr s with
  | nil => exact ⟨s, sr, cfbChain_nil dir rk sr ▸ .refl s, hops, hc⟩
  | cons d segs ih =>
    obtain ⟨hd, hsegs⟩ := List.forall_mem_cons.mp hlen
    obtain ⟨u, hrun, hrest, hcu⟩ := runReads_block d.1 hd hc hops
    obtain ⟨t, sr', hrun', hdone, hct⟩ := ih hsegs hcu hrest
    rw [List.map_cons, cfbChain_cons]
    exact ⟨t, sr', hrun.trans hrun', hdone, hct⟩

/-- The host sequence of a message in either direction reads out the bits of its chain (43_cfb_message.md R184). -/
theorem hostSequence_computes_cfbChain (dir : Direction) {s : State} {iv key : Block} {m : List Bool}
    {segs : List (Block × Nat)} (hb : s.flag .busy = false) (hlens : segs.map Prod.snd = segLens m.length)
    (hsegs : segs.map (fun d => pad d.1 d.2) = segments m)
    (hops : s.hostOps = cfbStartOps key iv ++ segs.flatMap fun d => blockOps (cfbCommand dir d.2) d.1) :
    ∃ k t, core.run k s = .next t ∧ t.hostOps = [] ∧ t.flag .busy = false ∧ t.err = 0 ∧
      (readsOf (addrOf .dout) s.hostReads.length t).flatMap blockBits =
        (cfbChain dir (keySchedule key) iv (segments m)).flatMap blockBits := by
  have hlen : ∀ d ∈ segs, 1 ≤ d.2 ∧ d.2 ≤ 64 := fun d hd => segLens_range (hlens ▸ List.mem_map_of_mem hd)
  obtain ⟨u, hstart, hrest, hcu, -, -⟩ := runReads_cfbStart hb hops
  obtain ⟨t, sr', hblocks, hdone, hct⟩ := runReads_segments dir hlen hcu hrest
  have hreads := (hstart.trans hblocks).readsOf_dout
  obtain ⟨k, -, hrun, -⟩ := hstart.trans hblocks
  exact ⟨k, t, hrun, hdone, hct.busy, hct.err, by rw [hreads, List.nil_append, hsegs]⟩

/-- Settles O58: the chain of CFB_ENC is `cfb_encrypt`. -/
theorem hostSequenceComputesCfbEncrypt : Obligations.HostSequenceComputesCfbEncrypt :=
  fun _ _ _ _ _ hb hlens hsegs hops => hostSequence_computes_cfbChain .encrypt hb hlens hsegs hops

/-- Settles O59: the chain of CFB_DEC is `cfb_decrypt`. -/
theorem hostSequenceComputesCfbDecrypt : Obligations.HostSequenceComputesCfbDecrypt :=
  fun _ _ _ _ _ hb hlens hsegs hops => hostSequence_computes_cfbChain .decrypt hb hlens hsegs hops

end Sys2Proof.Machine
end

section
/-! PROOFS. The message functions `cfb_encrypt` and `cfb_decrypt` (spec/43_cfb_message.md): the bits of a message and
its segments, and the chain of blocks in either direction. -/

namespace Sys2Proof.Machine

/-! ### The bits of a message and its segments -/

theorem blockBits_blockOf (f : Nat → Bool) : blockBits (blockOf f) = (List.range 64).map f :=
  List.map_congr_left fun i hi => getMsbD_blockOf f i (List.mem_range.mp hi)

theorem blockBits_xor (a b : Block) : blockBits (a ^^^ b) = List.zipWith xor (blockBits a) (blockBits b) := by
  simp [blockBits, List.zipWith_map, List.zipWith_self]

theorem length_flatMap_blockBits (bs : List Block) : (bs.flatMap blockBits).length = 64 * bs.length := by
  induction bs with
  | nil => rfl
  | cons b bs ih => rw [List.flatMap_cons, List.length_append, length_blockBits, ih, List.length_cons]; omega

theorem length_segments (m : List Bool) : (segments m).length = segCount m.length := by simp [segments]

theorem le_mul_segCount (n : Nat) : n ≤ 64 * segCount n := by unfold segCount; omega

/-- Rows of `w` values, one after the other, are the values in order. -/
theorem flatMap_range_rows {α : Type} (f : Nat → α) (w k : Nat) :
    ((List.range k).flatMap fun j => (List.range w).map fun t => f (w * j + t)) = (List.range (w * k)).map f := by
  induction k with
  | zero => rfl
  | succ k ih => simp [List.range_succ, ih, Nat.mul_succ, List.range_add]

/-- A list read beyond its end as zero bits is the list followed by zeros. -/
theorem map_getD_range (m : List Bool) (z : Nat) :
    (List.range (m.length + z)).map (m.getD · false) = m ++ List.replicate z false := by
  refine List.ext_getElem (by simp) fun i _ _ => ?_
  by_cases hi : i < m.length
  · simp [hi]
  · simp [hi, List.getElem_append]

/-- The segments hold the message and its zero padding (43_cfb_message.md R180, R181). -/
theorem flatMap_blockBits_segments (m : List Bool) :
    (segments m).flatMap blockBits = m ++ List.replicate (64 * segCount m.length - m.length) false := by
  rw [← map_getD_range, Nat.add_sub_cancel' (le_mul_segCount _), ← flatMap_range_rows, segments, List.flatMap_map]
  exact congrArg (List.flatMap · _) (funext fun j => blockBits_blockOf _)

/-- Bit `64j + t` of whole blocks is bit `t` of block `j`, by induction over the blocks. -/
theorem getD_flatMap_blockBits (bs : List Block) (j : Nat) {t : Nat} (ht : t < 64) :
    (bs.flatMap blockBits).getD (64 * j + t) false = (bs.getD j 0).getMsbD t := by
  induction bs generalizing j with
  | nil => simp
  | cons b bs ih =>
    cases j with
    | zero =>
      rw [List.flatMap_cons, Nat.mul_zero, Nat.zero_add, List.getD_append _ _ _ _ (by rwa [length_blockBits])]
      simp [blockBits, ht]
    | succ j =>
      have hidx : 64 * (j + 1) + t - (blockBits b).length = 64 * j + t := by rw [length_blockBits]; omega
      rw [List.flatMap_cons, List.getD_append_right _ _ _ _ (by rw [length_blockBits]; omega), hidx, ih]
      rfl

/-- Whole blocks are the segments of their bits (43_cfb_message.md R183). -/
theorem segments_flatMap_blockBits (bs : List Block) : segments (bs.flatMap blockBits) = bs := by
  have hcount : segCount (64 * bs.length) = bs.length := by unfold segCount; omega
  have hseg : ∀ j, segment (bs.flatMap blockBits) j = bs.getD j 0 := fun j =>
    BitVec.eq_of_getMsbD_eq fun t ht => (getMsbD_blockOf _ t ht).trans (getD_flatMap_blockBits bs j ht)
  rw [segments, length_flatMap_blockBits, hcount, funext hseg]
  exact List.ext_getElem (by simp) fun i _ hi => by simp [hi]

/-- Zero bits leave a keystream as it is. -/
theorem zipWith_xor_replicate_false (o : List Bool) : List.zipWith xor (List.replicate o.length false) o = o := by
  induction o with
  | nil => rfl
  | cons b o ih => rw [List.length_cons, List.replicate_succ, List.zipWith_cons_cons, ih, Bool.false_xor]

/-! ### The chain of blocks -/

theorem length_encryptChain (rk : RoundKeys) (sr : Block) (ps : List Block) :
    (encryptChain rk sr ps).length = ps.length := by
  induction ps generalizing sr with
  | nil => rfl
  | cons p ps ih => simp [encryptChain, ih]

theorem length_keystreamChain (rk : RoundKeys) (sr : Block) (ps : List Block) :
    (keystreamChain rk sr ps).length = ps.length := by
  induction ps generalizing sr with
  | nil => rfl
  | cons p ps ih => simp [keystreamChain, ih]

theorem length_decryptChain (rk : RoundKeys) (sr : Block) (cs : List Block) :
    (decryptChain rk sr cs).length = cs.length := by
  induction cs generalizing sr with
  | nil => rfl
  | cons c cs ih => simp [decryptChain, ih]

/-- Decryption goes through the chain values of the encryption, so each keystream block cancels itself
(43_cfb_message.md R187). -/
theorem decryptChain_encryptChain (rk : RoundKeys) (sr : Block) (ps : List Block) :
    decryptChain rk sr (encryptChain rk sr ps) = ps := by
  induction ps generalizing sr with
  | nil => rfl
  | cons p ps ih => rw [encryptChain, decryptChain, ih, BitVec.xor_assoc, BitVec.xor_self, BitVec.xor_zero]

/-- The ciphertext bits are the segments' bits under the keystream (43_cfb_message.md R182). -/
theorem flatMap_blockBits_encryptChain (rk : RoundKeys) (sr : Block) (ps : List Block) :
    (encryptChain rk sr ps).flatMap blockBits =
      List.zipWith xor (ps.flatMap blockBits) ((keystreamChain rk sr ps).flatMap blockBits) := by
  induction ps generalizing sr with
  | nil => rfl
  | cons p ps ih =>
    have hlen : (blockBits p).length = (blockBits (chainKey rk sr)).length := by simp only [length_blockBits]
    simp only [encryptChain, keystreamChain, List.flatMap_cons]
    rw [blockBits_xor, ih, List.zipWith_append hlen]

/-- Plaintext block `k` is ciphertext block `k` under the keystream of the chain value before it, which is the
ciphertext block before it or the initial one (43_cfb_message.md R183). -/
theorem getElem?_decryptChain (rk : RoundKeys) (sr : Block) (cs : List Block) (k : Nat) :
    (decryptChain rk sr cs)[k]? = cs[k]?.map (· ^^^ chainKey rk ((sr :: cs).getD k 0)) := by
  induction cs generalizing sr k with
  | nil => rfl
  | cons c cs ih =>
    cases k with
    | zero => rfl
    | succ k => exact ih c k

theorem getD_decryptChain (rk : RoundKeys) (sr : Block) {cs : List Block} {k : Nat} (hk : k < cs.length) :
    (decryptChain rk sr cs).getD k 0 = cs.getD k 0 ^^^ chainKey rk ((sr :: cs).getD k 0) := by
  rw [List.getD_eq_getElem?_getD, getElem?_decryptChain, List.getElem?_eq_getElem hk, List.getD_eq_getElem cs 0 hk]
  rfl

/-- Two blocks under one keystream block differ as they do without it. -/
theorem xor_xor_xor_cancel (a b o : Block) : (a ^^^ o) ^^^ (b ^^^ o) = a ^^^ b := by
  rw [BitVec.xor_comm b o, BitVec.xor_assoc, ← BitVec.xor_assoc o, BitVec.xor_self, BitVec.zero_xor]

/-! ### The message functions -/

/-- Settles O52: the ciphertext's segments are the blocks of the chain, whose decryption gives the segments of the
message. -/
theorem cfbRoundTrip : Obligations.CfbRoundTrip := by
  intro iv key m
  rw [cfbDecrypt, cfbEncrypt, segments_flatMap_blockBits, decryptChain_encryptChain, flatMap_blockBits_segments]

/-- Settles O54: plaintext block `k` depends on ciphertext blocks `k` and `k - 1` only. -/
theorem cfbIsSelfSynchronising : Obligations.CfbIsSelfSynchronising := by
  intro rk sr cs j c' hj
  have hset : sr :: cs.set j c' = (sr :: cs).set (j + 1) c' := rfl
  refine ⟨by rw [length_decryptChain, List.length_set], fun k hk hk' => ?_, ?_⟩
  · simp only [List.getD_eq_getElem?_getD, getElem?_decryptChain, hset, List.getElem?_set_ne hk.symm,
      List.getElem?_set_ne hk'.symm]
  · have hbefore : (sr :: cs.set j c').getD j 0 = (sr :: cs).getD j 0 := by
      rw [hset, List.getD_eq_getElem?_getD, List.getElem?_set_ne (by omega), List.getD_eq_getElem?_getD]
    have hj' : j < (cs.set j c').length := by rwa [List.length_set]
    have hnew : (cs.set j c').getD j 0 = c' := by rw [List.getD_eq_getElem _ _ hj', List.getElem_set_self]
    rw [getD_decryptChain rk sr hj', getD_decryptChain rk sr hj, hbefore, hnew, xor_xor_xor_cancel, BitVec.xor_comm]

/-- Settles O53: the zero padding leaves the keystream after the message's last bit as it is. -/
theorem ciphertextIsMessageUnderKeystream : Obligations.CiphertextIsMessageUnderKeystream := by
  intro iv key m o
  have hlen : o.length = 64 * segCount m.length := by
    rw [length_flatMap_blockBits, length_keystreamChain, length_segments]
  have hbits : cfbEncrypt iv m key = List.zipWith xor (m ++ List.replicate (o.length - m.length) false) o := by
    rw [cfbEncrypt, flatMap_blockBits_encryptChain, flatMap_blockBits_segments, hlen]
  refine ⟨?length, ?message, ?keystream⟩
  case length => rw [cfbEncrypt, length_flatMap_blockBits, length_encryptChain, length_segments]
  case message => rw [hbits, List.take_zipWith, List.take_left]
  case keystream =>
    rw [hbits, List.drop_zipWith, List.drop_left, ← List.length_drop, zipWith_xor_replicate_false]

end Sys2Proof.Machine
end

section
/-! PROOFS. How a command fails (spec/60_exceptions.md R202, R206, R207). -/

namespace Sys2Proof.Machine

/-- A legal command that is not ready raises NOT_READY and has no effect (60_exceptions.md R202). -/
theorem exec_of_notReady {i : Instr} {s : State} (hl : i.isReserved = false) (hr : ready s i = false) :
    exec i s = .next (raiseError .notReady s) := by
  rw [exec_legal i s hl, runWhen_notReady _ _ hr]

/-- A word that the decoder accepts is performed as its instruction (42_commands.md R150). -/
theorem perform_of_decode {s : State} {i : Instr} (h : decode s.pend = .instr i) : perform s = exec i s := by
  rw [perform, h]

/-- The Engine's step ends in success, with ERR = 0, or in an error raised on the state as it was (60_exceptions.md
R209). -/
theorem perform_succeeds_or_raises {s t : State} (h : perform s = .next t) :
    t.err = 0 ∨ ∃ e, t = raiseError e s := by
  rcases perform_cases h with ⟨i, -, hx⟩ | ⟨r, -, ht⟩
  · rcases exec_cases hx with ⟨-, ht⟩ | ⟨-, -, ht⟩ | ⟨-, -, ht⟩
    · exact .inr ⟨_, ht⟩
    · exact .inr ⟨_, ht⟩
    · exact .inl (ht ▸ err_complete .none _)
  · exact .inr ⟨_, ht⟩

/-- A legal command's outcome is decided by its Ready condition alone (60_exceptions.md R207). -/
theorem exec_err_of_legal {i : Instr} (s : State) (hl : i.isReserved = false) :
    ∃ t, exec i s = .next t ∧ t.err = if ready s i = true then 0 else 4 := by
  cases hr : ready s i with
  | true => exact ⟨_, exec_of_ready hr, err_complete .none _⟩
  | false => exact ⟨_, exec_of_notReady hl hr, err_raiseError .notReady s⟩

/-- Settles O17: with an input's flag at 0 the command's Ready condition is false. -/
theorem missingInputRaisesNotReady : Obligations.MissingInputRaisesNotReady := by
  refine fun s n => ⟨_, completedFrom_complete .notReady s, fun h => exec_of_notReady rfl h,
    fun h => exec_of_notReady rfl ?enc, fun h => exec_of_notReady rfl ?dec, fun h => exec_of_notReady rfl ?cfbInit,
    fun h => exec_of_notReady rfl ?cfbEnc, fun h => exec_of_notReady rfl ?cfbDec⟩
  case enc | dec | cfbInit => exact Bool.and_eq_false_iff.mpr h
  case cfbEnc | cfbDec => simpa only [ready, Bool.and_eq_false_iff, or_assoc] using h

/-- Settles O18: a success leaves ERR = 0, and an error is raised by a completion that has no other effect. -/
theorem failedCommandChangesOnlyErrAndBusy : Obligations.FailedCommandChangesOnlyErrAndBusy := by
  intro s t ha h he
  rcases perform_succeeds_or_raises ((step_engine ha).symm.trans h) with h0 | ⟨e, rfl⟩
  · exact absurd h0 he
  · exact ⟨e, _, completedFrom_complete e s, rfl⟩

/-- Settles O19: an illegal word raises its code before any flag is looked at, a legal one is no reserved opcode, and
OVR is no bit of ERR. -/
theorem errorPriority : Obligations.ErrorPriority := by
  refine ⟨fun s ha hl => ?illegal, fun s i ha hl hd => ?legal, fun s a v hb => ?dropped⟩
  case illegal =>
    exact ⟨_, (step_engine ha).trans (perform_of_illegal hl), err_raiseError .illegalCommand s⟩
  case legal =>
    have hi : i.isReserved = false := by simpa [hl] using legal_of_decode hd
    rw [step_engine ha, perform_of_decode hd]
    exact exec_err_of_legal s hi
  case dropped =>
    rw [hostWrite_busy a v s hb]
    exact ⟨by simp, errField_setFlag s.status .ovr⟩

end Sys2Proof.Machine
end

section
/-! PROOFS. The laws of the Feistel transform (spec/41_primitives.md sections 2, 3 and 6): decryption, equal round keys,
the parity bits, and the complement carried through every primitive. -/

namespace Sys2Proof.Machine

/-! ### Decryption, and equal round keys -/

/-- Settles O48: the rounds run back for every round-key file. -/
theorem decryptUndoesEncrypt : Obligations.DecryptUndoesEncrypt := transform_decrypt_encrypt

/-- Sixteen equal round keys have one order (41_primitives.md R130). -/
theorem keyOrder_replicate_decrypt (k : RoundKey) :
    keyOrder (Vector.replicate 16 k) .decrypt = keyOrder (Vector.replicate 16 k) .encrypt := by
  rw [keyOrder_decrypt, Vector.reverse_replicate]

/-- Settles O50: with equal round keys encryption is decryption, which undoes it. -/
theorem equalRoundKeysMakeAnInvolution : Obligations.EqualRoundKeysMakeAnInvolution := by
  intro b k
  have hdir (c : Block) :
      transform c (Vector.replicate 16 k) .encrypt = transform c (Vector.replicate 16 k) .decrypt :=
    transform_congr_keyOrder c (keyOrder_replicate_decrypt k).symm
  exact ⟨hdir b, (hdir _).trans (transform_decrypt_encrypt b _)⟩

/-! ### The complement through the primitives -/

/-- A table moves the bits of a complement as it moves the bits (41_primitives.md R120). -/
@[simp] theorem apply_not {w n : Nat} (t : IndexTable w n) (v : BitVec w) : apply t (~~~v) = ~~~apply t v := by
  apply BitVec.eq_of_getMsbD_eq
  intro i hi
  rw [getMsbD_apply t _ i hi, BitVec.getMsbD_not, BitVec.getMsbD_not, getMsbD_apply t v i hi]
  simp only [t.getD_lt hi, hi]

theorem seqSlice_not {w : Nat} (v : BitVec w) (i len : Nat) (h : i + len ≤ w) :
    seqSlice (~~~v) i len = ~~~seqSlice v i len := by
  apply BitVec.eq_of_getMsbD_eq
  intro k hk
  rw [getMsbD_seqSlice _ _ _ _ h hk, BitVec.getMsbD_not, BitVec.getMsbD_not, getMsbD_seqSlice v _ _ _ h hk]
  simp only [hk, show i + k < w by omega]

@[simp] theorem joinKey_not (c d : HalfKey) : joinKey (~~~c) (~~~d) = ~~~joinKey c d := BitVec.not_append.symm

@[simp] theorem joinBlock_not (l r : HalfBlock) : joinBlock (~~~l) (~~~r) = ~~~joinBlock l r :=
  BitVec.not_append.symm

@[simp] theorem rotl28_not (x : HalfKey) (s : Nat) : rotl28 (~~~x) s = ~~~rotl28 x s := by
  apply BitVec.eq_of_getMsbD_eq
  intro i hi
  rw [getMsbD_rotl28 _ s i hi, BitVec.getMsbD_not, BitVec.getMsbD_not, getMsbD_rotl28 x s i hi]
  simp only [hi, Nat.mod_lt (i + s) (show 28 > 0 by decide)]

/-! ### The round function -/

/-- E carries both complements to the same bits, where they cancel (41_primitives.md section 3). -/
theorem roundF_not_not (r : HalfBlock) (k : RoundKey) : roundF (~~~r) (~~~k) = roundF r k := by
  have hx : ~~~(apply tableE r) ^^^ ~~~k = apply tableE r ^^^ k := by
    rw [← BitVec.not_xor_left, ← BitVec.not_xor_right, BitVec.not_not]
  rw [roundF, roundF, apply_not, hx]

/-- Settles O45: the complements cancel, and the corners are computed. -/
theorem roundFunctionCorners : Obligations.RoundFunctionCorners :=
  ⟨roundF_not_not, by decide +kernel, by decide +kernel, by decide +kernel, by decide +kernel⟩

/-! ### The key schedule -/

theorem keyRounds_not (ss : List Nat) (c d : HalfKey) :
    keyRounds ss (~~~c) (~~~d) = (keyRounds ss c d).map (~~~·) := by
  induction ss generalizing c d with
  | nil => rfl
  | cons s ss ih => simp [keyRounds, ih]

/-- The round keys of the complement are the complements of the round keys (41_primitives.md section 6 (b)). -/
theorem keyScheduleList_not (key : Block) : keyScheduleList (~~~key) = (keyScheduleList key).map (~~~·) := by
  rw [keyScheduleList, apply_not, seqSlice_not _ 0 28 (by decide), seqSlice_not _ 28 28 (by decide), keyRounds_not]
  rfl

theorem keySchedule_not (key : Block) : keySchedule (~~~key) = (keySchedule key).map (~~~·) := by
  apply Vector.toList_inj.mp
  rw [Vector.toList_map, toList_keySchedule, toList_keySchedule, keyScheduleList_not]

/-- No entry of PC-1 is a parity bit, which is the last of its byte (40_tables.md). -/
theorem tablePC1_not_parity (i : Fin 56) : tablePC1.entries.getD i 0 % 8 ≠ 7 := by
  decide +revert

/-- PC-1 reads no parity bit, so keys that differ in parity bits only have one key schedule (41_primitives.md
section 2). -/
theorem keySchedule_congr_parity {key key' : Block}
    (h : ∀ i, i < 64 → i % 8 ≠ 7 → key.getMsbD i = key'.getMsbD i) : keySchedule key = keySchedule key' := by
  have hpc1 : apply tablePC1 key = apply tablePC1 key' := by
    apply BitVec.eq_of_getMsbD_eq
    intro i hi
    rw [getMsbD_apply tablePC1 key i hi, getMsbD_apply tablePC1 key' i hi]
    exact h _ (tablePC1.getD_lt hi) (tablePC1_not_parity ⟨i, hi⟩)
  simp only [keySchedule, keyScheduleList, hpc1]

/-- The zero key has sixteen zero round keys (41_primitives.md R125). -/
theorem keySchedule_zero : keySchedule 0 = Vector.replicate 16 0 := by
  decide +kernel

/-- The all-one key has sixteen all-one round keys, the complements of the zero key's (41_primitives.md R125). -/
theorem keySchedule_allOnes : keySchedule 0xFFFFFFFFFFFFFFFF = Vector.replicate 16 0xFFFFFFFFFFFF := by
  rw [show (0xFFFFFFFFFFFFFFFF : Block) = ~~~0 by decide, keySchedule_not, keySchedule_zero, Vector.map_replicate]
  rfl

/-- Settles O44: PC-1 skips the parity bits, and the listed keys are the zero key and its complement up to these. -/
theorem parityBitsDoNotAffectRoundKeys : Obligations.ParityBitsDoNotAffectRoundKeys := by
  refine ⟨fun key key' => keySchedule_congr_parity, keySchedule_zero, ?_, keySchedule_allOnes, ?_⟩
  · exact (keySchedule_congr_parity (by decide)).trans keySchedule_zero
  · exact (keySchedule_congr_parity (by decide)).trans keySchedule_allOnes

/-! ### The complementation property -/

/-- F is blind to the complement, so a round complements its halves once (41_primitives.md R129). -/
theorem foldl_feistelRound_not (ks : List RoundKey) (l r : HalfBlock) :
    (ks.map (~~~·)).foldl feistelRound (~~~l, ~~~r) =
      (ks.foldl feistelRound (l, r)).map (~~~·) (~~~·) := by
  induction ks generalizing l r with
  | nil => rfl
  | cons k ks ih =>
    have hround : feistelRound (~~~l, ~~~r) (~~~k) = (~~~r, ~~~(l ^^^ roundF r k)) := by
      rw [feistelRound, roundF_not_not, BitVec.not_xor_left]
    rw [List.map_cons, List.foldl_cons, hround, ih]
    rfl

/-- Settles O49: the complement passes through IP, the key schedule, the rounds and IP⁻¹. -/
theorem complementationProperty : Obligations.ComplementationProperty := by
  intro b key
  have hkeys : keyOrder (keySchedule (~~~key)) .encrypt = (keyOrder (keySchedule key) .encrypt).map (~~~·) := by
    rw [keySchedule_not, keyOrder, Vector.toList_map, keyOrder]
  rw [transform, hkeys, apply_not, seqSlice_not _ 0 32 (by decide), seqSlice_not _ 32 32 (by decide),
    foldl_feistelRound_not, Prod.map_fst, Prod.map_snd, joinBlock_not, apply_not, transform]

end Sys2Proof.Machine
end

section
/-! PROOFS. Whose turn a step is (spec/20_memory.md R68; spec/42_commands.md R150; log entries 4 and 7). -/

namespace Sys2Proof.Machine

/-- The Engine moves next when a command is pending and the Host has nothing to do or no turn left (log entry 4). -/
theorem nextAgent_eq_engine_iff (s : State) :
    nextAgent s = .engine ↔ s.flag .busy = true ∧ (s.hostOps = [] ∨ s.hostTurns = 0) := by
  cases hops : s.hostOps with
  | nil => simp [nextAgent, hops]
  | cons op rest => simp [nextAgent, hops]

/-- A word that the decoder rejects completes with ILLEGAL_COMMAND (42_commands.md R158). -/
theorem perform_of_decode_illegal {s : State} {r : IllegalReason} (h : decode s.pend = .illegal r) :
    perform s = .next (raiseError .illegalCommand s) := by
  rw [perform, h]

theorem step_nobody {s : State} (h : nextAgent s = .nobody) : step s = .next s := by rw [step, h]

/-- Settles O7: the step of each agent. -/
theorem stepRunsTheDecodedCommand : Obligations.StepRunsTheDecodedCommand :=
  ⟨nextAgent_eq_engine_iff, fun _ _ ha hd => (step_engine ha).trans (perform_of_decode hd),
    fun _ _ ha hd => (step_engine ha).trans (perform_of_decode_illegal hd), fun _ _ _ => step_host,
    fun _ => ⟨fun _ => rfl, fun _ _ => rfl, rfl, rfl⟩, fun _ => step_nobody⟩

end Sys2Proof.Machine
end

section
/-! PROOFS. The tables are well formed (spec/40_tables.md R117). -/

namespace Sys2Proof.Machine

/-- Settles O40: lengths and ranges are the tables' own fields; the rest is a check of the entries. -/
theorem tablesAreWellFormed : Obligations.TablesAreWellFormed :=
  ⟨⟨tableIP.length_eq, tableIPInv.length_eq, tablePC1.length_eq, tablePC2.length_eq, tableE.length_eq,
      tableP.length_eq, rfl⟩,
    ⟨tableIP.inRange, tableIPInv.inRange, tablePC1.inRange, tablePC2.inRange, tableE.inRange, tableP.inRange⟩,
    by decide,
    by decide, by decide, by decide, by decide, by decide, tableIPInv_tableIP, by decide⟩

end Sys2Proof.Machine
end
